-- ==== Sys2Proof/Word.lean ====
section
/-!
DEFINITION. The words of the AM32-BL link block (00_scope.md R11): bytes, the 16- and 32-bit unsigned values, and the
level of the one line.
-/

namespace Sys2Proof

/-- A byte `b[7:0]` (R11). -/
abbrev Byte := BitVec 8

/-- A 16-bit unsigned value, u16 (R11). -/
abbrev U16 := BitVec 16

/-- A 32-bit unsigned value, u32 (R11); flash addresses are of this type (20_memory.md R50). -/
abbrev U32 := BitVec 32

/-- The level of the pin, `Line(t)` of R13: `true` is 1, high (the idle level), `false` is 0, low. -/
abbrev Level := Bool

end Sys2Proof
end

