-- ==== Sys2Proof/Syntax.lean ====
section
/-!
DEFINITION. The instructions of the block: the frames a host can send (00_scope.md R2), one constructor per row of
spec/opcode_table.json, with every field of the row's format (30_encoding.md R75, R78, R79) as an operand.
-/

namespace Sys2Proof

/-- A probe site `(marker, tag0, tag1)`: the three frame offsets the device-identification probe looks at
(43_commands.md R161). -/
structure ProbeSite where
  marker : Nat
  tag0 : Nat
  tag1 : Nat
  deriving DecidableEq, Repr, Inhabited

/-- A frame, as an instruction. The CRC bytes are operands, low byte first (20_memory.md R57): whether they are right is
decided by the instruction's meaning, not by the decoder. -/
inductive Instr where
  /-- RUN, code 0x00, format F_ARG3 (R75, R169). -/
  | run (a1 a2 a3 : Byte)
  /-- PROG_FLASH, code 0x01, format F_CRC2 (R75, R170); `p1` is CRC input only (R76). -/
  | progFlash (p1 crcLo crcHi : Byte)
  /-- ERASE_FLASH, code 0x02, format F_CRC2 (R75, R171); `p1` is CRC input only (R76). -/
  | eraseFlash (p1 crcLo crcHi : Byte)
  /-- READ_FLASH, code 0x03, format F_CRC2 (R75, R172); `p1` is the size, 0 meaning 256 (R81). -/
  | readFlash (p1 crcLo crcHi : Byte)
  /-- READ_EEPROM, code 0x04, format F_BARE (R75, R173). -/
  | readEeprom
  /-- KEEP_ALIVE, code 0xFD, format F_CRC2 (R75, R174); `p1` is CRC input only (R76). -/
  | keepAlive (p1 crcLo crcHi : Byte)
  /-- SET_BUFFER, code 0xFE, format F_CRC4 (R75, R175); `x` is CRC input only (R76). -/
  | setBuffer (x p2 p3 crcLo crcHi : Byte)
  /-- SET_ADDRESS, code 0xFF, format F_CRC4 (R75, R176); `x` is CRC input only (R76). -/
  | setAddress (x p2 p3 crcLo crcHi : Byte)
  /-- Any code from 0x05 to 0xFC, format F_BARE (R82, R177). -/
  | unknown (code : Byte)
  /-- A raw payload frame, format F_PAYLOAD (R78, 43_commands.md R162). -/
  | rawPayload (data : List Byte) (crcLo crcHi : Byte)
  /-- A device-identification probe, format F_PROBE (R79, 43_commands.md R161), with the first site that matches. -/
  | deviceProbe (site : ProbeSite)
  deriving DecidableEq, Repr

end Sys2Proof
end

