-- ==== Sys2Proof/Config.lean ====
section
/-!
DEFINITION. What an implementation fixes (00_scope.md R6 to R9) and the free values the spec leaves to the environment
(R10, 93_implementation_defined.md). A free value is a constant with no body: nothing can be proved of what it is.
-/

namespace Sys2Proof.Config

/-! ### Sizes and constants the spec states -/

/-- `N_RX`, the frame cap: "a byte sequence of at most 258 bytes" (R7). -/
def nRx : Nat := 258

/-- `N_PAY`, the size of the payload buffer (R7). -/
def nPay : Nat := 256

/-- The reply byte ACK (R9). -/
def ack : Byte := 0x30

/-- The reply byte NACK, "bad command / generic NACK" (R9); the table's BAD_ACK too (R15, decision D6). -/
def nack : Byte := 0xC1

/-- The reply byte BADCRC (R9). -/
def badCrc : Byte := 0xC2

/-- `FAIL_FORCE`, the score that asks for the jump outright (R9). -/
def failForce : U16 := 101

/-- The jump is requested when `FAIL_SCORE` is above this (R9). -/
def failLimit : U16 := 100

/-- What an unknown command adds to `FAIL_SCORE` (R9). -/
def failUnknown : U16 := 1

/-- What a receive-buffer overrun adds to `FAIL_SCORE` (R9). -/
def failOverrun : U16 := 20

/-- The probe's marker byte (R9). -/
def probeMarker : Byte := 0x7D

/-- The probe's first tag byte, 13 (R9). -/
def probeTag0 : Byte := 13

/-- The probe's second tag byte, 66 (R9). -/
def probeTag1 : Byte := 66

/-! ### Parameters with a default of the spec -/

/-- The line timing, in microseconds, with the spec's defaults (R6, decisions D1, D2, D3). -/
structure Timing where
  tBit : Nat := 52
  tHalf : Nat := 26
  tIdle : Nat := 20000
  tGap : Nat := 250
  tPoll : Nat := 1
  deriving DecidableEq, Repr

/-- The timing of this block: every default of R6. -/
def timing : Timing := {}

/-- `PROBE_SITES` with the default of 43_commands.md R161 (decision D24; only the first site is the source's, I11). -/
def probeSites : List ProbeSite := [⟨16, 8, 9⟩, ⟨20, 12, 13⟩, ⟨40, 32, 33⟩]

/-! ### Board parameters, which the spec leaves open (R8; I1, I16) -/

/-- `ADDRESS_SHIFT`: 0 for 32 and 64 KiB parts, 2 for 128 KiB parts (R8); no other value exists. -/
inductive AddressShift where
  | zero
  | two
  deriving DecidableEq, Repr, Inhabited

/-- The number of places the shift moves. -/
def AddressShift.amount : AddressShift → Nat
  | .zero => 0
  | .two => 2

/-- `FLASH_BASE`, the base address SET_ADDRESS adds (R8). FREE: the board's. -/
opaque flashBase : U32

/-- The board's application base before the relation of decision D4 is put on it. FREE: the board's. -/
opaque appBaseRaw : U32

/-- `APP_BASE`, the lowest writable address (R8). The relation `APP_BASE >= FLASH_BASE` (decision D4) holds by
construction, and every pair of addresses in that relation is still possible. -/
def appBase : U32 := if flashBase ≤ appBaseRaw then appBaseRaw else flashBase

/-- `ADDRESS_SHIFT` (R8). FREE: the board's. -/
opaque addressShift : AddressShift

/-- The port number of `PIN` (R8), 4 bits (decision D29). FREE: the board's. -/
opaque pinPort : BitVec 4

/-- The pin number of `PIN` (R8), 4 bits (decision D29). FREE: the board's. -/
opaque pinNumber : BitVec 4

/-- The identity record's first family character (44_responses.md R204). FREE: the board's. -/
opaque familyChar0 : Byte

/-- The identity record's second family character (R204). FREE: the board's. -/
opaque familyChar1 : Byte

/-- The identity record's flash-size code (R204). FREE: the board's. -/
opaque flashSizeCode : Byte

/-- The identity record's first tag byte (R204). FREE: the board's. -/
opaque tagByte0 : Byte

/-- The identity record's second tag byte (R204). FREE: the board's. -/
opaque tagByte1 : Byte

/-- The identity record's third tag byte (R204). FREE: the board's. -/
opaque tagByte2 : Byte

/-- The identity record's first trailer byte (R204). FREE: the board's. -/
opaque trailerByte0 : Byte

/-- The identity record's second trailer byte (R204). FREE: the board's. -/
opaque trailerByte1 : Byte

/-- The pin-code byte `(port << 4) | pin` (R204). -/
def pinCode : Byte := (pinPort.setWidth 8 <<< 4) ||| pinNumber.setWidth 8

/-- `DEVINFO[0..8]`, the Device Identity Record as it is sent (R204). -/
def devInfo : List Byte :=
  [familyChar0, familyChar1, pinCode, flashSizeCode, tagByte0, tagByte1, tagByte2, trailerByte0, trailerByte1]

/-! ### Free values of the environment, each drawn with a counter or an address -/

/-- What a flash byte that nothing in the model has written reads as: the flash contents at session start are not
specified (70_reset_and_hazards.md R252, I3). FREE, one value per address. -/
opaque flashInitial : Nat → Byte

/-- The `ok` of the flash write that takes draw `n` (20_memory.md R53, I2). FREE. -/
opaque flashWriteOk : Nat → Bool

/-- Byte `i` of the range left by the failed flash write that takes draw `n` (R55, I7). FREE. -/
opaque failedWriteByte : Nat → Nat → Byte

/-- Byte `i` of the range left by a flash write that a reset interrupts, at draw `n` (I7). FREE. -/
opaque interruptedWriteByte : Nat → Nat → Byte

/-- The time, in microseconds, of the untimed steps that take draw `n` (00_scope.md R10, decision D5, I5). FREE. -/
opaque delay : Nat → Nat

/-- Whether the Jump Validator asked at draw `n` transfers control (60_exceptions.md R233, I9). FREE. -/
opaque validatorTransfers : Nat → Bool

/-- The level of the line at time `t` when the block and the peer both drive it (I4). FREE. -/
opaque contendedLevel : Nat → Level

end Sys2Proof.Config
end

