-- ==== Sys2Proof/WellFormed.lean ====
section
/-!
DEFINITION. Which instructions stand for a frame the block can receive (30_encoding.md R75, R78 to R80).
-/

namespace Sys2Proof

/-- Whether an instruction's operands lie in the ranges its encoding admits: an unknown code is one of 0x05 to 0xFC
(R80, R82), a payload has at most 256 bytes (R78), and a probe's site is one of the block's sites (R79). Every other
format admits every value of its fields (R76). -/
def Instr.wellFormed : Instr → Bool
  | .run _ _ _ => true
  | .progFlash _ _ _ => true
  | .eraseFlash _ _ _ => true
  | .readFlash _ _ _ => true
  | .readEeprom => true
  | .keepAlive _ _ _ => true
  | .setBuffer _ _ _ _ _ => true
  | .setAddress _ _ _ _ _ => true
  | .unknown code => decide (0x05#8 ≤ code) && decide (code ≤ 0xFC#8)
  | .rawPayload data _ _ => decide (data.length ≤ Config.nPay)
  | .deviceProbe site => decide (site ∈ Config.probeSites)

/-- A well-formed instruction. -/
abbrev WellFormed (i : Instr) : Prop := i.wellFormed = true

end Sys2Proof
end

