-- ==== Sys2Proof/Decode.lean ====
section
/-!
DEFINITION. The decoder (30_encoding.md R72 to R83, 43_commands.md R160, R161), total on any bytes, and the encoder.
-/

namespace Sys2Proof

/-- Which kind of frame a message is: it "depends only on PAYLOAD_EXPECTED" (R72). A payload frame carries
`PAYLOAD_BUFFER_SIZE` data bytes (R73). -/
inductive FrameMode where
  | command
  | payload (size : Nat)
  deriving DecidableEq, Repr

/-- Why a byte sequence is no frame. -/
inductive DecodeError where
  /-- There is no byte at all: a command frame has 1 to 258 bytes (R73). -/
  | emptyFrame
  /-- It is longer than the frame cap of 258 bytes (R72). -/
  | overlongFrame
  /-- The announced payload size is above 256, which R78 and 10_state.md R23 exclude. -/
  | payloadSizeIllegal
  deriving DecidableEq, Repr

/-- The byte at an offset; an offset past the end reads 0x00 (R77, 10_state.md R28). -/
def frameByte (f : List Byte) (k : Nat) : Byte := f.getD k 0

/-- Whether a frame carries the marker and the two tags at a probe site (43_commands.md R161). -/
def siteMatches (f : List Byte) (p : ProbeSite) : Bool :=
  frameByte f p.marker == Config.probeMarker && frameByte f p.tag0 == Config.probeTag0 &&
    frameByte f p.tag1 == Config.probeTag1

/-- The first probe site a frame matches, `probe_match` of R161. -/
def probeMatch (f : List Byte) : Option ProbeSite := Config.probeSites.find? (siteMatches f)

/-- The command map over byte 0 (R80), with each format's fields (R75). -/
def decodeCode (f : List Byte) : Instr :=
  let c := frameByte f 0
  if c = 0x00#8 then .run (frameByte f 1) (frameByte f 2) (frameByte f 3)
  else if c = 0x01#8 then .progFlash (frameByte f 1) (frameByte f 2) (frameByte f 3)
  else if c = 0x02#8 then .eraseFlash (frameByte f 1) (frameByte f 2) (frameByte f 3)
  else if c = 0x03#8 then .readFlash (frameByte f 1) (frameByte f 2) (frameByte f 3)
  else if c = 0x04#8 then .readEeprom
  else if c = 0xFD#8 then .keepAlive (frameByte f 1) (frameByte f 2) (frameByte f 3)
  else if c = 0xFE#8 then
    .setBuffer (frameByte f 1) (frameByte f 2) (frameByte f 3) (frameByte f 4) (frameByte f 5)
  else if c = 0xFF#8 then
    .setAddress (frameByte f 1) (frameByte f 2) (frameByte f 3) (frameByte f 4) (frameByte f 5)
  else .unknown c

/-- A command frame: the probe is tested before byte 0 and short-circuits it (R83). -/
def decodeCommand (f : List Byte) : Instr :=
  match probeMatch f with
  | some p => .deviceProbe p
  | none => decodeCode f

/-- A payload frame of `n` data bytes: the data, then the CRC low byte first (R78). -/
def decodePayload (n : Nat) (f : List Byte) : Instr :=
  .rawPayload ((List.range n).map (frameByte f)) (frameByte f n) (frameByte f (n + 1))

/-- The decoder. The bytes are a frame, or the whole receive buffer, whose bytes past the frame are zero: both decode
alike (R77). The order of the tests is R83's: the mode, then the probe, then byte 0. -/
def decode (mode : FrameMode) (f : List Byte) : Except DecodeError Instr :=
  if f = [] then .error .emptyFrame
  else if f.length > Config.nRx then .error .overlongFrame
  else
    match mode with
    | .command => .ok (decodeCommand f)
    | .payload n => if n > Config.nPay then .error .payloadSizeIllegal else .ok (decodePayload n f)

/-! ### The encoder -/

/-- The mode in which the block takes an instruction's frame (R72). -/
def Instr.frameMode : Instr → FrameMode
  | .run _ _ _ => .command
  | .progFlash _ _ _ => .command
  | .eraseFlash _ _ _ => .command
  | .readFlash _ _ _ => .command
  | .readEeprom => .command
  | .keepAlive _ _ _ => .command
  | .setBuffer _ _ _ _ _ => .command
  | .setAddress _ _ _ _ _ => .command
  | .unknown _ => .command
  | .rawPayload data _ _ => .payload data.length
  | .deviceProbe _ => .command

/-- A probe frame for a site: the marker and the two tags, every other byte 0x00 (R79: the others are not
interpreted). -/
def probeFrame (p : ProbeSite) : List Byte :=
  (List.range (p.marker + 1)).map fun k =>
    if k = p.marker then Config.probeMarker
    else if k = p.tag0 then Config.probeTag0
    else if k = p.tag1 then Config.probeTag1
    else 0

/-- The bytes of an instruction's frame, in the order they are sent, no longer than its format (R75, R78, R79). -/
def encode : Instr → List Byte
  | .run a1 a2 a3 => [0x00, a1, a2, a3]
  | .progFlash p1 lo hi => [0x01, p1, lo, hi]
  | .eraseFlash p1 lo hi => [0x02, p1, lo, hi]
  | .readFlash p1 lo hi => [0x03, p1, lo, hi]
  | .readEeprom => [0x04]
  | .keepAlive p1 lo hi => [0xFD, p1, lo, hi]
  | .setBuffer x p2 p3 lo hi => [0xFE, x, p2, p3, lo, hi]
  | .setAddress x p2 p3 lo hi => [0xFF, x, p2, p3, lo, hi]
  | .unknown code => [code]
  | .rawPayload data lo hi => data ++ [lo, hi]
  | .deviceProbe site => probeFrame site

/-! ### The opcode table's numbering -/

/-- The bytes of a table word: the first byte of the frame is bits 7..0, the next bits 15..8, and so on. -/
def tableBytes (nbits w : Nat) : List Byte :=
  (List.range ((nbits + 7) / 8)).map fun k => BitVec.ofNat 8 (w >>> (8 * k))

/-- The instruction the decoder reads from a word of the opcode table, every bit above `nbits` zero (a missing byte
reads 0x00, R77). The table's words are those of command frames. -/
def decodeTableWord (nbits w : Nat) : Option Instr :=
  match decode .command (tableBytes nbits w) with
  | .ok i => some i
  | .error _ => none

end Sys2Proof
end

