-- ==== Sys2Proof/Machine/State.lean ====
section
/-!
DEFINITION. The state of the block (10_state.md), of the line and the flash it is connected to, the reasons a step can
stop, and the state at session start (70_reset_and_hazards.md R250).
-/

namespace Sys2Proof.Machine

/-- The sequencer's states (10_state.md R33). -/
inductive Sequencer where
  /-- ASSEMBLE: collecting a message (42_assembly.md R141). -/
  | assemble
  /-- DISPATCH: deciding and executing the command or payload check (43_commands.md R160). -/
  | dispatch
  /-- REPLY: transmitting a reply (44_responses.md R200). -/
  | reply
  /-- JUMP_TEST: testing the jump request (42_assembly.md R148). -/
  | jumpTest
  /-- HANDOFF: waiting for the Jump Validator's answer (60_exceptions.md R233). -/
  | handoff
  deriving DecidableEq, Repr

/-- The direction of the pin, `DIR` (R31). -/
inductive Direction where
  | rx
  | tx
  deriving DecidableEq, Repr

/-- What the peer does with the line: it leaves it alone, or drives it low or high (00_scope.md R10, R13). -/
inductive PeerDrive where
  | released
  | low
  | high
  deriving DecidableEq, Repr

/-- The block's place inside `read_byte` (R21; 41_transport.md R113 to R117). -/
inductive ReadPhase where
  /-- At the entry, before `TimerReset()` (R113). -/
  | enter
  /-- Step 1, at a poll of the idle wait (R113). -/
  | idleWait
  /-- Step 2, at a poll of the start wait (R114). -/
  | startWait
  /-- Step 3, at the detected edge `te` (R115). -/
  | startCheck
  /-- Step 4, before the sample of data bit `i`, with the bits sampled so far in `d` (R116). -/
  | dataBit (i : Nat) (d : Byte)
  /-- Step 5, before the stop sample, with the byte `d` (R117). -/
  | stopCheck (d : Byte)
  deriving DecidableEq, Repr

/-- The block's place inside `session` and `assemble` (R21; 42_assembly.md R140, R141). -/
inductive RxPhase where
  /-- Before the session's `EnterRX()` (R140, R251). -/
  | session
  /-- At the start of an assembly, before its buffers are cleared (R141). -/
  | clear
  /-- Inside `read_byte`. -/
  | reading (p : ReadPhase)
  deriving DecidableEq, Repr

/-- The mode an assembly sampled at its start (42_assembly.md R141); a payload collection ends at its `n`-th byte
(R143). -/
inductive Collect where
  | command
  | payload (n : Nat)
  deriving DecidableEq, Repr

/-- The block's place inside `Send`, with the byte in the air and the bytes after it (44_responses.md R200;
41_transport.md R111, R118, R119). -/
inductive TxPhase where
  /-- Not sending. -/
  | idle
  /-- Before `EnterTX()`, with the whole string. -/
  | enterTx (s : List Byte)
  /-- Before the start cell of `b`. -/
  | startCell (b : Byte) (rest : List Byte)
  /-- Before the cell of data bit `i` of `b`. -/
  | dataCell (i : Nat) (b : Byte) (rest : List Byte)
  /-- Before the stop level of the current byte. -/
  | stopCell (rest : List Byte)
  /-- Before the closing `EnterRX()`. -/
  | enterRx
  deriving DecidableEq, Repr

/-- What the dispatch still does when its `Send` returns (00_scope.md R14: the statements after `Send` come after it). -/
inductive AfterSend where
  /-- Nothing: `Send` is the arm's last statement. -/
  | nothing
  /-- `x[PAYLOAD_EXPECTED] <- 0`, after the ACK of a payload (43_commands.md R162). -/
  | leavePayloadMode
  /-- `x[FAIL_SCORE] <- x[FAIL_SCORE] + 1`, after the NACK of an unknown command (R177). -/
  | countUnknown
  deriving DecidableEq, Repr

/-- One call of a flash port (20_memory.md R52, R53). -/
inductive FlashCall where
  /-- `MemRead(addr, n)`. -/
  | read (addr : U32) (n : Nat)
  /-- `MemWrite(addr, len(data), data)`. -/
  | write (addr : U32) (data : List Byte)
  deriving DecidableEq, Repr

/-- The flash contents (20_memory.md R55): addresses strictly rising, and no entry equal to what an unlisted address
reads as. -/
abbrev Memory := List Host.Cell

/-- The state. The first block is the table of 10_state.md; the second is the position R21 speaks of; the third is what
the block is connected to; the last three fields are the model's own. -/
structure State where
  /-- `CURRENT_ADDRESS` (R22). -/
  currentAddress : U32
  /-- `PAYLOAD_BUFFER_SIZE` (R23). -/
  payloadBufferSize : U16
  /-- `PAYLOAD_EXPECTED` (R24). -/
  payloadExpected : Bool
  /-- `FAIL_SCORE` (R25). -/
  failScore : U16
  /-- `EEPROM_REQ` (R26). -/
  eepromReq : Bool
  /-- `PBUF[0..255]` (R27). -/
  pbuf : Vector Byte 256
  /-- `RXBUF[0..257]` (R28). -/
  rxbuf : Vector Byte 258
  /-- `RXCOUNT` (R29). -/
  rxCount : Nat
  /-- `MSG_RCVD` (R29). -/
  msgRcvd : Bool
  /-- `DIR` (R31). -/
  dir : Direction
  /-- `LINE_OUT` (R32). -/
  lineOut : Level
  /-- `seq` (R33). -/
  seq : Sequencer
  /-- The place inside `assemble` and `read_byte` (R21). -/
  rx : RxPhase
  /-- The sampled `mode` and count of the assembly (42_assembly.md R141, R143). -/
  collect : Collect
  /-- The place inside `Send` (R21). -/
  tx : TxPhase
  /-- The place in the dispatch that `Send` returns to (R21; 43_commands.md R162, R177). -/
  afterSend : AfterSend
  /-- `Now`, in microseconds (00_scope.md R13). -/
  now : Nat
  /-- `t_reset`, the time of the last `TimerReset()` (00_scope.md R13, 10_state.md R34). -/
  timerOrigin : Nat
  /-- The peer's drive: from each listed time on the peer does what is listed; before the first it leaves the line
  alone (00_scope.md R10). -/
  peer : List (Nat × PeerDrive)
  /-- The flash contents (20_memory.md R55). -/
  flash : Memory
  /-- MODEL: the flash port calls made so far, newest first. -/
  flashCalls : List FlashCall
  /-- MODEL: the Jump Validator has transferred control for good (60_exceptions.md R233). -/
  transferred : Bool
  /-- MODEL: how many free values have been drawn. -/
  draws : Nat
  deriving DecidableEq, Repr

/-- Why the machine stops. -/
inductive Fault where
  /-- Control has been transferred to the application, "ending the block's operation for good" (60_exceptions.md R233).
  Raised by `step` alone, in a state where `transferred` holds. Safe: the spec says there is no further step. -/
  | operationEnded
  deriving DecidableEq, Repr

/-- Why an instruction has no meaning. -/
inductive Refusal where
  /-- The instruction of this mnemonic is not modelled. Raised by an arm of `exec` alone; no arm is left that does. Safe. -/
  | notModelled (mnemonic : String)
  /-- The message in the receive buffer is no frame: `PAYLOAD_BUFFER_SIZE` is above 256, which 10_state.md R23 says cannot
  be held. Raised by `step` at a dispatch; no run from reset reaches it. Safe. -/
  | undecodable (reason : DecodeError)
  deriving DecidableEq, Repr

/-- Session start (70_reset_and_hazards.md R250). Time, timer origin, the peer's schedule, the positions and the model's
own fields have no value in the spec: see the assumption log. -/
def State.reset : State where
  currentAddress := 0
  payloadBufferSize := 0
  payloadExpected := false
  failScore := 0
  eepromReq := false
  pbuf := Vector.replicate 256 0
  rxbuf := Vector.replicate 258 0
  rxCount := 0
  msgRcvd := false
  dir := .rx
  lineOut := true
  seq := .assemble
  rx := .session
  collect := .command
  tx := .idle
  afterSend := .nothing
  now := 0
  timerOrigin := 0
  peer := []
  flash := []
  flashCalls := []
  transferred := false
  draws := 0

end Sys2Proof.Machine
end

