-- ==== Sys2Proof/Machine/Crc.lean ====
section
/-!
DEFINITION. The CRC-16 generator and validator (40_crc.md).
-/

namespace Sys2Proof.Machine

/-- One bit through the register: the bit shifted out is combined with the data bit, and the polynomial 0xA001 is xored
in when the result is 1 (R100). -/
def crcBit (c : U16) (d : Bool) : U16 :=
  if (c.getLsbD 0 != d) = true then (c >>> 1) ^^^ 0xA001#16 else c >>> 1

/-- One byte, "one bit at a time LSB-first" (R100). -/
def crcByte (c : U16) (d : Byte) : U16 :=
  [0, 1, 2, 3, 4, 5, 6, 7].foldl (fun r i => crcBit r (d.getLsbD i)) c

/-- A byte sequence from a given register value. -/
def crcFrom (c : U16) (s : List Byte) : U16 := s.foldl crcByte c

/-- `crc16(s)`, "initial register 0" (R100). -/
def crc16 (s : List Byte) : U16 := crcFrom 0 s

/-- The low byte of a CRC, sent first (20_memory.md R57). -/
def crcLow (c : U16) : Byte := c.extractLsb' 0 8

/-- The high byte of a CRC, sent second (R57). -/
def crcHigh (c : U16) : Byte := c.extractLsb' 8 8

/-- The two CRC bytes of a byte sequence in the order they stand on the line (R57, R107). -/
def crcBytes (s : List Byte) : List Byte := [crcLow (crc16 s), crcHigh (crc16 s)]

/-- `verify(s, lo, hi)`, which "compares byte-wise (low byte first)" (R104). -/
def verify (s : List Byte) (lo hi : Byte) : Bool := crcLow (crc16 s) == lo && crcHigh (crc16 s) == hi

/-- One shift of the byte-at-a-time form (R102). -/
def crcShift (c : U16) : U16 := if c.getLsbD 0 = true then (c >>> 1) ^^^ 0xA001#16 else c >>> 1

/-- The byte-at-a-time form of a byte: xor it in, then shift eight times (R102). -/
def crcByteWise (c : U16) (d : Byte) : U16 :=
  crcShift (crcShift (crcShift (crcShift (crcShift (crcShift (crcShift (crcShift (c ^^^ d.setWidth 16))))))))

/-- The byte-at-a-time form of `crc16` (R102). -/
def crc16ByteWise (s : List Byte) : U16 := s.foldl crcByteWise 0

end Sys2Proof.Machine
end

