-- ==== Sys2Proof/Machine/Operands.lean ====
section
/-!
DEFINITION. The operand values computed from frame bytes (30_encoding.md R81), all unsigned.
-/

namespace Sys2Proof.Machine

/-- READ_FLASH's `out_size`: "byte 1 of frame, 0 meaning 256", so 1 to 256 (R81). -/
def outSize (p1 : Byte) : Nat := if p1 = 0 then 256 else p1.toNat

/-- SET_BUFFER's `size`: 256 if byte 2 is 1, else byte 3 (R81). -/
def bufferSize (p2 p3 : Byte) : U16 := if p2 = 1 then 256 else p3.setWidth 16

/-- SET_ADDRESS's `offset`, byte 2 the high byte (R81, 20_memory.md R57). -/
def addressOffset (p2 p3 : Byte) : U32 := (p2.setWidth 32 <<< 8) ||| p3.setWidth 32

/-- SET_ADDRESS's `addr = (FLASH_BASE + (offset << ADDRESS_SHIFT)) mod 2^32` (R81). -/
def targetAddress (p2 p3 : Byte) : U32 :=
  Config.flashBase + (addressOffset p2 p3 <<< Config.addressShift.amount)

/-- RUN's `zero_args` (R81). -/
def zeroArgs (a1 a2 a3 : Byte) : Bool := a1 == 0 && a2 == 0 && a3 == 0

/-- The CRC value a frame carries: `exp = lo | (hi << 8)` (R81). -/
def crcField (lo hi : Byte) : U16 := lo.setWidth 16 ||| (hi.setWidth 16 <<< 8)

/-- The writability gate, an unsigned comparison of the start address alone (20_memory.md R54). -/
def writable (a : U32) : Bool := decide (Config.appBase ≤ a)

/-- Byte `i` of a flash access at `a`: the address `(a + i) mod 2^32` (20_memory.md R52). -/
def flashAddress (a : U32) (i : Nat) : Nat := (a + BitVec.ofNat 32 i).toNat

end Sys2Proof.Machine
end

