-- ==== Sys2Proof/Machine/Flags.lean ====
section
/-!
DEFINITION. The block has no condition codes; its flags are PAYLOAD_EXPECTED, EEPROM_REQ and MSG_RCVD (10_state.md R24,
R26, R29), its error budget is FAIL_SCORE (R25), and the one condition computed from them is the jump request
(60_exceptions.md R232).
-/

namespace Sys2Proof.Machine

/-- Adds to `FAIL_SCORE` modulo 2^16 (R25). -/
def State.addFail (k : U16) (s : State) : State := { s with failScore := s.failScore + k }

/-- Sets `FAIL_SCORE` (R25). -/
def State.setFail (k : U16) (s : State) : State := { s with failScore := k }

/-- `JUMP_REQ`: `FAIL_SCORE` is above 100, an unsigned comparison (60_exceptions.md R232). -/
def State.jumpRequested (s : State) : Bool := decide (Config.failLimit < s.failScore)

/-- Sets or clears `PAYLOAD_EXPECTED` (R24). -/
def State.setPayloadExpected (v : Bool) (s : State) : State := { s with payloadExpected := v }

/-- Sets `EEPROM_REQ` (R26). -/
def State.setEepromReq (s : State) : State := { s with eepromReq := true }

end Sys2Proof.Machine
end

