-- ==== Sys2Proof/Machine/Ops.lean ====
section
/-!
DEFINITION. The named operations every step is made of: flash contents, the flash ports, time and draws, the pin, the end
of a command, and the one fixed action each error cause has (the block's analogue of taking an exception) with the
return from it.
-/

namespace Sys2Proof.Machine

/-! ### Flash contents (20_memory.md R55) -/

/-- The byte at an address; an unlisted address reads as a free byte. -/
def Memory.read : Memory → Nat → Byte
  | [], a => Config.flashInitial a
  | (k, v) :: m, a => if k = a then v else Memory.read m a

/-- Stores a byte, keeping the canonical form: a byte equal to what its address reads as unlisted is not listed. -/
def Memory.write : Memory → Nat → Byte → Memory
  | [], a, v => if v = Config.flashInitial a then [] else [(a, v)]
  | (k, w) :: m, a, v =>
    if a < k then (if v = Config.flashInitial a then (k, w) :: m else (a, v) :: (k, w) :: m)
    else if a = k then (if v = Config.flashInitial a then m else (a, v) :: m)
    else (k, w) :: Memory.write m a v

/-- The canonical form: addresses strictly rising and inside the 32-bit space, no entry equal to what its address reads
as unlisted. -/
abbrev Memory.wf (m : Memory) : Prop :=
  m.Pairwise (fun e f => e.1 < f.1) ∧ ∀ e ∈ m, e.1 < 2 ^ 32 ∧ e.2 ≠ Config.flashInitial e.1

/-- The `n` bytes from `a`, byte `i` from address `(a + i) mod 2^32` (R52). -/
def Memory.readBytes (m : Memory) (a : U32) (n : Nat) : List Byte :=
  (List.range n).map fun i => m.read (flashAddress a i)

/-- Stores a byte sequence from offset `i` of `a` on, in order (R55). -/
def Memory.writeFrom (a : U32) : Nat → List Byte → Memory → Memory
  | _, [], m => m
  | i, b :: bs, m => Memory.writeFrom a (i + 1) bs (m.write (flashAddress a i) b)

/-- Stores a byte sequence at `a` (R55). -/
def Memory.writeBytes (m : Memory) (a : U32) (data : List Byte) : Memory := Memory.writeFrom a 0 data m

/-! ### Time and draws (00_scope.md R10, R13) -/

/-- `Wait(d)` (R13). -/
def State.wait (d : Nat) (s : State) : State := { s with now := s.now + d }

/-- Takes one free value. -/
def State.drawn (s : State) : State := { s with draws := s.draws + 1 }

/-- Lets the untimed steps between two timed ones take their time, which is any (R10, decision D5). -/
def State.elapse (s : State) : State := { s with now := s.now + Config.delay s.draws, draws := s.draws + 1 }

/-- `TimerReset()` (R13). -/
def State.timerReset (s : State) : State := { s with timerOrigin := s.now }

/-- `Elapsed()`, which is `(Now - t_reset) mod 2^32` (R13, 60_exceptions.md R236). -/
def State.elapsed (s : State) : U32 := BitVec.ofNat 32 (s.now - s.timerOrigin)

/-! ### The pin (10_state.md R31, R32; 41_transport.md R110, R111, R128) -/

/-- What the peer does at time `t`, by its schedule: the last entry not after `t` that the list has, `d` if none. -/
def peerAt (t : Nat) : List (Nat × PeerDrive) → PeerDrive → PeerDrive
  | [], d => d
  | (u, e) :: l, d => peerAt t l (if u ≤ t then e else d)

/-- What the peer does now. -/
def State.peerDrive (s : State) : PeerDrive := peerAt s.now s.peer .released

/-- `Line(Now)`, the level on the pin: in RX the peer's drive, or 1 by the pull-up (R31, R128); in TX the output level,
or any level while the peer drives too (I4). -/
def State.pinLevel (s : State) : Level :=
  match s.dir, s.peerDrive with
  | .rx, .released => true
  | .rx, .low => false
  | .rx, .high => true
  | .tx, .released => s.lineOut
  | .tx, .low => Config.contendedLevel s.now
  | .tx, .high => Config.contendedLevel s.now

/-- `Drive(v)` (R13). -/
def State.drive (v : Level) (s : State) : State := { s with lineOut := v }

/-- `EnterRX()`: input with pull-up, at once, `LINE_OUT` unchanged (R110). -/
def State.enterRx (s : State) : State := { s with dir := .rx }

/-- `EnterTX()` up to its settle delay: drive high first, then switch to output (R111). -/
def State.enterTx (s : State) : State := { s with lineOut := true, dir := .tx }

/-! ### The flash ports (20_memory.md R52, R53) -/

/-- `MemRead(addr, n)`: the bytes, and the state after the call, which has no other effect (R52, R59). -/
def State.memRead (a : U32) (n : Nat) (s : State) : List Byte × State :=
  (s.flash.readBytes a n, { s with flashCalls := .read a n :: s.flashCalls })

/-- What the flash range of a write holds afterwards: the data if the call succeeded, any bytes if it failed (R55). -/
def storedBytes (draw : Nat) (ok : Bool) (data : List Byte) : List Byte :=
  if ok then data else (List.range data.length).map (Config.failedWriteByte draw)

/-- `MemWrite(addr, len(data), data)`: its `ok`, which is free, and the state after the call (R53, R55). -/
def State.memWrite (a : U32) (data : List Byte) (s : State) : Bool × State :=
  let ok := Config.flashWriteOk s.draws
  (ok, { s with
    flash := s.flash.writeBytes a (storedBytes s.draws ok data)
    flashCalls := .write a data :: s.flashCalls
    draws := s.draws + 1 })

/-! ### How a command ends (44_responses.md R200, 42_assembly.md R140) -/

/-- Goes from a dispatch into a reply: the command's processing time passes, then `Send(r)` begins (R200). What the
dispatch does after `Send` waits until it returns (00_scope.md R14). -/
def State.sendThen (a : AfterSend) (r : List Byte) (s : State) : State :=
  { s.elapse with seq := .reply, tx := .enterTx r, afterSend := a }

/-- A reply that is the last thing its command does. -/
def State.send (r : List Byte) (s : State) : State := s.sendThen .nothing r

/-- `PAYLOAD_EXPECTED` after what waited for `Send` to return (43_commands.md R162). -/
def AfterSend.expected : AfterSend → Bool → Bool
  | .nothing, v => v
  | .leavePayloadMode, _ => false
  | .countUnknown, v => v

/-- `FAIL_SCORE` after what waited for `Send` to return (43_commands.md R177). -/
def AfterSend.score : AfterSend → U16 → U16
  | .nothing, k => k
  | .leavePayloadMode, k => k
  | .countUnknown, k => k + Config.failUnknown

/-- What waited for `Send` to return is done. -/
def State.carryOut (s : State) : State :=
  { s with
    payloadExpected := s.afterSend.expected s.payloadExpected
    failScore := s.afterSend.score s.failScore
    afterSend := .nothing }

/-- Ends a command that has no reply: its processing time passes, then the jump test follows (R140). -/
def State.conclude (s : State) : State := { s.elapse with seq := .jumpTest }

/-- Ends an assembly as Complete: the message goes to dispatch (R140). -/
def State.complete (s : State) : State := { s with seq := .dispatch, rx := .clear }

/-- Ends an assembly as Aborted: the message is not dispatched, and the jump test follows (R140, R144). -/
def State.abort (s : State) : State := { s with seq := .jumpTest, rx := .clear }

/-! ### Errors: each cause has one fixed action (60_exceptions.md R220, R227) -/

/-- The error causes E1 to E9 (R220, decision D30). -/
inductive ErrorCause where
  /-- E1, liveness. -/
  | idleTimeout
  /-- E2, the end of a command message, or the abort of a payload. -/
  | noStart
  /-- E3, framing. -/
  | badStart
  /-- E4, framing. -/
  | badStop
  /-- E5, protocol. -/
  | badCrc
  /-- E6, protocol. -/
  | badCommand
  /-- E7, policy. -/
  | notWritable
  /-- E8, the flash primitive failed. -/
  | flashFail
  /-- E9, liveness. -/
  | overrun
  deriving DecidableEq, Repr

/-- The number in the name E1 to E9 (R220). -/
def ErrorCause.code : ErrorCause → Nat
  | .idleTimeout => 1
  | .noStart => 2
  | .badStart => 3
  | .badStop => 4
  | .badCrc => 5
  | .badCommand => 6
  | .notWritable => 7
  | .flashFail => 8
  | .overrun => 9

/-- The fixed action of an error cause: what R220's table records and replies, and how the message goes on. No state is
saved and no vector is taken (R227). E6 replies first and counts when `Send` has returned (43_commands.md R177). -/
def State.handleError (e : ErrorCause) (s : State) : State :=
  match e with
  | .idleTimeout => (s.setFail Config.failForce).abort
  | .noStart =>
    match s.collect with
    | .command => s.complete
    | .payload _ => s.abort
  | .badStart => s.abort
  | .badStop => s.abort
  | .badCrc => s.send [Config.badCrc]
  | .badCommand => s.sendThen .countUnknown [Config.nack]
  | .notWritable => s.send [Config.nack]
  | .flashFail => s.send [Config.nack]
  | .overrun => (s.addFail Config.failOverrun).complete

/-- The start of the next message cycle, after any time at all (42_assembly.md R140, decision D5). -/
def State.nextCycle (s : State) : State := { s.elapse with seq := .assemble, rx := .clear }

/-- The return from every error and the end of every message cycle (60_exceptions.md R228): the jump test, and the next
assembly unless the jump is requested (42_assembly.md R148). -/
def State.jumpTest (s : State) : State :=
  if s.jumpRequested then { s with seq := .handoff } else s.nextCycle

/-- `HANDOFF`: the Jump Validator transfers control for good, or refuses; on a refusal `FAIL_SCORE` is 0 and the block
listens again (60_exceptions.md R233, decision D31). Which of the two is free. -/
def State.handoff (s : State) : State :=
  if Config.validatorTransfers s.draws then { s.drawn.elapse with transferred := true }
  else (s.drawn.setFail 0).nextCycle

/-! ### Reset (70_reset_and_hazards.md R250, R254) -/

/-- A reset of the device, power cycle or software reset: the block is at session start again (R250). What lies outside
the block goes on: time, the timer, the peer and the flash; so do the model's log of port calls and its draws. -/
def State.deviceReset (s : State) : State :=
  { State.reset with
    now := s.now, timerOrigin := s.timerOrigin, peer := s.peer, flash := s.flash, flashCalls := s.flashCalls
    draws := s.draws }

/-- A reset that interrupts a flash write of `n` bytes at `a`: the range it was writing holds any bytes (R254, I7). -/
def State.deviceResetInWrite (a : U32) (n : Nat) (s : State) : State :=
  { s.deviceReset with
    flash := s.flash.writeBytes a ((List.range n).map (Config.interruptedWriteByte s.draws))
    draws := s.draws + 1 }

end Sys2Proof.Machine
end

