-- ==== Sys2Proof/Machine/Transport.lean ====
section
/-!
DEFINITION. The bit-banged half-duplex transport (41_transport.md): `read_byte` one poll or sample at a time, `Send` one
bit cell at a time.
-/

namespace Sys2Proof.Machine

/-- The five outcomes of `read_byte` (R112). -/
inductive ReadOutcome where
  | byte (b : Byte)
  | idleTimeout
  | noStart
  | badStart
  | badStop
  deriving DecidableEq, Repr

/-- What one step of `read_byte` leaves: the call goes on, or it returns with an outcome. -/
inductive Receive where
  | still (s : State)
  | done (r : ReadOutcome) (s : State)
  deriving DecidableEq, Repr

/-- Moves to another place inside `read_byte`. -/
def State.readAt (p : ReadPhase) (s : State) : State := { s with rx := .reading p }

/-- Puts a sampled bit at position `i` of the byte being received: the level is the bit's value (R116). -/
def putBit (d : Byte) (i : Nat) (v : Level) : Byte := if v then d ||| (1#8 <<< i) else d

/-- One step of `read_byte` at a place: one poll of step 1 or 2, or one timed sample of steps 3 to 5 (R113 to R117). In
each poll the level is tested before the timeout (R224). -/
def readByteStep (p : ReadPhase) (s : State) : Receive :=
  match p with
  | .enter => .still (s.timerReset.readAt .idleWait)
  | .idleWait =>
    if s.pinLevel then .still (s.readAt .startWait)
    else if Config.timing.tIdle < s.elapsed.toNat then .done .idleTimeout s
    else .still (s.wait Config.timing.tPoll)
  | .startWait =>
    if s.pinLevel = false then .still (s.readAt .startCheck)
    else if s.msgRcvd = true ∧ Config.timing.tGap < s.elapsed.toNat then .done .noStart s
    else .still (s.wait Config.timing.tPoll)
  | .startCheck =>
    let t := s.wait Config.timing.tHalf
    if t.pinLevel then .done .badStart t else .still (t.readAt (.dataBit 0 0))
  | .dataBit i d =>
    let t := s.wait Config.timing.tBit
    let d' := putBit d i t.pinLevel
    .still (t.readAt (if i < 7 then .dataBit (i + 1) d' else .stopCheck d'))
  | .stopCheck d =>
    let t := s.wait Config.timing.tBit
    if t.pinLevel then .done (.byte d) t else .done .badStop t

/-- The level of cell `k` of a character (30_encoding.md R70): start, the data bits LSB first, then the stop level. -/
def charCell (b : Byte) (k : Nat) : Level := if k = 0 then false else if k ≤ 8 then b.getLsbD (k - 1) else true

/-- Moves to another place inside `Send`. -/
def State.sendAt (p : TxPhase) (s : State) : State := { s with tx := p }

/-- Where `write_string` goes on: the next byte's start cell, or its return to `Send` (R119). -/
def nextByte : List Byte → TxPhase
  | [] => .enterRx
  | b :: rest => .startCell b rest

/-- `Send` returns with its `EnterRX()`, the rest of the dispatch is done, and the message cycle goes on with the jump test
(44_responses.md R200, 43_commands.md R162, R177, 42_assembly.md R140). -/
def State.finishReply (s : State) : State := { s.enterRx.carryOut with seq := .jumpTest, tx := .idle }

/-- One step of `Send`: the settle delay, one bit cell, the stop level with the delay between bytes, or the closing
`EnterRX()` (R111, R118, R119, 44_responses.md R200). -/
def State.replyStep (s : State) : State :=
  match s.tx with
  | .idle => s.finishReply
  | .enterTx r => (s.enterTx.wait Config.timing.tBit).sendAt (nextByte r)
  | .startCell b rest => ((s.drive (charCell b 0)).wait Config.timing.tBit).sendAt (.dataCell 0 b rest)
  | .dataCell i b rest =>
    ((s.drive (charCell b (i + 1))).wait Config.timing.tBit).sendAt
      (if i < 7 then .dataCell (i + 1) b rest else .stopCell rest)
  | .stopCell [] => (s.drive true).sendAt .enterRx
  | .stopCell (b :: rest) => ((s.drive true).wait Config.timing.tBit).sendAt (.startCell b rest)
  | .enterRx => s.finishReply

end Sys2Proof.Machine
end

