-- ==== Sys2Proof/Machine/Assembly.lean ====
section
/-!
DEFINITION. Message assembly (42_assembly.md R140 to R147): the byte outcomes of `read_byte` become one message, complete
or aborted.
-/

namespace Sys2Proof.Machine

/-- The start of an assembly: `RXBUF` cleared, `RXCOUNT` and `MSG_RCVD` 0, the mode and the count sampled (R141, R143). -/
def State.beginAssembly (s : State) : State :=
  { s with
    rxbuf := Vector.replicate 258 0
    rxCount := 0
    msgRcvd := false
    collect := if s.payloadExpected then .payload (s.payloadBufferSize.toNat + 2) else .command
    rx := .reading .enter }

/-- Stores a received byte at `RXBUF[RXCOUNT]` and counts it (R142, R143). -/
def State.storeByte (b : Byte) (s : State) : State :=
  { s with rxbuf := s.rxbuf.setIfInBounds s.rxCount b, rxCount := s.rxCount + 1, msgRcvd := true }

/-- What a stored byte leads to: in command collection the 258th is an overrun (R142, R146); in payload collection the
`n`-th completes the message (R143); else the next `read_byte` begins. -/
def State.afterStore (s : State) : State :=
  match s.collect with
  | .command => if s.rxCount = Config.nRx then s.handleError .overrun else s.readAt .enter
  | .payload n => if s.rxCount = n then s.complete else s.readAt .enter

/-- What assembly does with an outcome of `read_byte` (R142 to R147, table R149). -/
def State.assemblyOutcome (r : ReadOutcome) (s : State) : State :=
  match r with
  | .byte b => (s.storeByte b).afterStore
  | .idleTimeout => s.handleError .idleTimeout
  | .noStart => s.handleError .noStart
  | .badStart => s.handleError .badStart
  | .badStop => s.handleError .badStop

/-- What assembly does with a step of `read_byte`. -/
def assemblyReceive : Receive → State
  | .still s => s
  | .done r s => s.assemblyOutcome r

/-- One step of the session in ASSEMBLE: the session's `EnterRX()`, the start of an assembly, or a step of `read_byte`
(R140, R141). -/
def State.assembleStep (s : State) : State :=
  match s.rx with
  | .session => { s.enterRx with rx := .clear }
  | .clear => s.beginAssembly
  | .reading p => assemblyReceive (readByteStep p s)

end Sys2Proof.Machine
end

