-- ==== Sys2Proof/Machine/Commands.lean ====
section
/-!
DEFINITION. The meanings of the commands that set the block up or report on it (43_commands.md R161, R169, R173 to R177):
RUN, READ_EEPROM, KEEP_ALIVE, SET_BUFFER, SET_ADDRESS, UNKNOWN and DEVICE_PROBE.
-/

namespace Sys2Proof.Machine

/-- The CRC check of a command: the first action, and on failure BADCRC is the only effect (43_commands.md R163). -/
def State.ifCrc (span : List Byte) (lo hi : Byte) (act : State → State) (s : State) : State :=
  if verify span lo hi then act s else s.handleError .badCrc

/-- RUN: zero arguments set `FAIL_SCORE` to 101; never a reply (R169). -/
def execRun (a1 a2 a3 : Byte) (s : State) : Host.Outcome State Fault Refusal :=
  .next (if zeroArgs a1 a2 a3 then (s.setFail Config.failForce).conclude else s.conclude)

/-- READ_EEPROM: sets the flag, no reply (R173). -/
def execReadEeprom (s : State) : Host.Outcome State Fault Refusal := .next s.setEepromReq.conclude

/-- KEEP_ALIVE: NACK, no register written (R174). -/
def execKeepAlive (p1 crcLo crcHi : Byte) (s : State) : Host.Outcome State Fault Refusal :=
  .next (s.ifCrc [0xFD, p1] crcLo crcHi fun s => s.send [Config.nack])

/-- SET_BUFFER: the size, payload mode, no reply (R175). -/
def execSetBuffer (x p2 p3 crcLo crcHi : Byte) (s : State) : Host.Outcome State Fault Refusal :=
  .next (s.ifCrc [0xFE, x, p2, p3] crcLo crcHi fun s =>
    ({ s with payloadBufferSize := bufferSize p2 p3 }.setPayloadExpected true).conclude)

/-- SET_ADDRESS: the address, ACK; the address is not checked here (R176). -/
def execSetAddress (x p2 p3 crcLo crcHi : Byte) (s : State) : Host.Outcome State Fault Refusal :=
  .next (s.ifCrc [0xFF, x, p2, p3] crcLo crcHi fun s =>
    { s with currentAddress := targetAddress p2 p3 }.send [Config.ack])

/-- UNKNOWN: the bad command error, whatever follows the code (R177). -/
def execUnknown (_code : Byte) (s : State) : Host.Outcome State Fault Refusal :=
  .next (s.handleError .badCommand)

/-- DEVICE_PROBE: the identity record, no register written, no CRC checked (R161, 44_responses.md R204). -/
def execDeviceProbe (_site : ProbeSite) (s : State) : Host.Outcome State Fault Refusal :=
  .next (s.send Config.devInfo)

end Sys2Proof.Machine
end

