-- ==== Sys2Proof/Machine/FlashCommands.lean ====
section
/-!
DEFINITION. The meanings of the frames that reach the payload buffer or the flash (43_commands.md R162, R170 to R172):
RAW_PAYLOAD, PROG_FLASH, ERASE_FLASH and READ_FLASH.
-/

namespace Sys2Proof.Machine

/-- The payload buffer after a payload was accepted: cleared, then the data bytes copied from offset 0 (R162). -/
def payloadImage (data : List Byte) : Vector Byte 256 := ⟨((data.take 256).rightpad 256 0).toArray, by simp⟩

/-- The payload buffer takes the data of a payload (R162). -/
def State.capture (data : List Byte) (s : State) : State := { s with pbuf := payloadImage data }

/-- Takes a good payload: the buffer, ACK, and then out of payload mode (R162). -/
def State.acceptPayload (data : List Byte) (s : State) : State :=
  (s.capture data).sendThen .leavePayloadMode [Config.ack]

/-- The payload PROG_FLASH writes: `PBUF[0..n-1]` with `n = PAYLOAD_BUFFER_SIZE` (R170). -/
def State.storedPayload (s : State) : List Byte := s.pbuf.toList.take s.payloadBufferSize.toNat

/-- Answers a flash write by its result: ACK, or the flash failure's NACK (R170, 60_exceptions.md R220). -/
def writeReply : Bool × State → State
  | (true, s) => s.send [Config.ack]
  | (false, s) => s.handleError .flashFail

/-- PROG_FLASH after its CRC check: the gate on the start address, one flash write, the reply by its result (R170). -/
def State.program (s : State) : State :=
  if writable s.currentAddress then writeReply (s.memWrite s.currentAddress s.storedPayload)
  else s.handleError .notWritable

/-- The read response: the data, their CRC low byte first, and ACK (44_responses.md R203). -/
def readResponse (d : List Byte) : List Byte := d ++ crcBytes d ++ [Config.ack]

/-- Sends what a flash read returned as one string (R172). -/
def readReply : List Byte × State → State
  | (d, s) => s.send (readResponse d)

/-- RAW_PAYLOAD: the payload check (R162). -/
def execRawPayload (data : List Byte) (crcLo crcHi : Byte) (s : State) : Host.Outcome State Fault Refusal :=
  .next (s.ifCrc data crcLo crcHi (State.acceptPayload data))

/-- PROG_FLASH (R170): the CRC before the gate (R164). -/
def execProgFlash (p1 crcLo crcHi : Byte) (s : State) : Host.Outcome State Fault Refusal :=
  .next (s.ifCrc [0x01, p1] crcLo crcHi State.program)

/-- ERASE_FLASH (R171): gates and acknowledges; no flash port is called. -/
def execEraseFlash (p1 crcLo crcHi : Byte) (s : State) : Host.Outcome State Fault Refusal :=
  .next (s.ifCrc [0x02, p1] crcLo crcHi fun s =>
    if writable s.currentAddress then s.send [Config.ack] else s.handleError .notWritable)

/-- READ_FLASH (R172): never gated; the address is not advanced. -/
def execReadFlash (p1 crcLo crcHi : Byte) (s : State) : Host.Outcome State Fault Refusal :=
  .next (s.ifCrc [0x03, p1] crcLo crcHi fun s => readReply (s.memRead s.currentAddress (outSize p1)))

end Sys2Proof.Machine
end

