-- ==== Sys2Proof/Machine/Dispatch.lean ====
section
/-!
DEFINITION. Dispatch of an instruction to its meaning (43_commands.md R160, R178), one arm per constructor.
-/

namespace Sys2Proof.Machine

def exec (i : Instr) (s : State) : Host.Outcome State Fault Refusal :=
  match i with
  | .run a1 a2 a3 => Sys2Proof.Machine.execRun a1 a2 a3 s
  | .progFlash p1 crcLo crcHi => Sys2Proof.Machine.execProgFlash p1 crcLo crcHi s
  | .eraseFlash p1 crcLo crcHi => Sys2Proof.Machine.execEraseFlash p1 crcLo crcHi s
  | .readFlash p1 crcLo crcHi => Sys2Proof.Machine.execReadFlash p1 crcLo crcHi s
  | .readEeprom => Sys2Proof.Machine.execReadEeprom s
  | .keepAlive p1 crcLo crcHi => Sys2Proof.Machine.execKeepAlive p1 crcLo crcHi s
  | .setBuffer x p2 p3 crcLo crcHi => Sys2Proof.Machine.execSetBuffer x p2 p3 crcLo crcHi s
  | .setAddress x p2 p3 crcLo crcHi => Sys2Proof.Machine.execSetAddress x p2 p3 crcLo crcHi s
  | .unknown code => Sys2Proof.Machine.execUnknown code s
  | .rawPayload data crcLo crcHi => Sys2Proof.Machine.execRawPayload data crcLo crcHi s
  | .deviceProbe site => Sys2Proof.Machine.execDeviceProbe site s

end Sys2Proof.Machine
end

