-- ==== Sys2Proof/Machine/Fetch.lean ====
section
/-!
DEFINITION. How a dispatch finds its instruction in the receive buffer (43_commands.md R160), and how a frame is laid out
there (10_state.md R28).
-/

namespace Sys2Proof.Machine

/-- The kind of frame the message in the buffer is (30_encoding.md R72, R73). -/
def State.fetchMode (s : State) : FrameMode :=
  if s.payloadExpected then .payload s.payloadBufferSize.toNat else .command

/-- The instruction a dispatch runs: the decoder over the whole receive buffer, whose bytes past the message are 0x00
(R160, 30_encoding.md R77). -/
def State.fetch (s : State) : Except DecodeError Instr := decode s.fetchMode s.rxbuf.toList

/-- The receive buffer that holds a frame from offset 0, every other byte 0x00 (10_state.md R28). -/
def frameBuffer (f : List Byte) : Vector Byte 258 := ⟨((f.take 258).rightpad 258 0).toArray, by simp⟩

/-- The state in which a command frame has just been assembled whole: the next step dispatches it. -/
def State.withFrame (f : List Byte) (s : State) : State :=
  { s with
    payloadExpected := false
    rxbuf := frameBuffer f
    rxCount := f.length
    msgRcvd := true
    seq := .dispatch
    rx := .clear
    transferred := false }

end Sys2Proof.Machine
end

