-- ==== Sys2Proof/Machine/Step.lean ====
section
/-!
DEFINITION. One step of the block (42_assembly.md R140), by the sequencer's state (10_state.md R33).
-/

namespace Sys2Proof.Machine

/-- A dispatch: the fetched instruction runs; a message that is no frame is refused by name. -/
def dispatchStep (s : State) : Host.Outcome State Fault Refusal :=
  match s.fetch with
  | .ok i => exec i s
  | .error e => .refused (.undecodable e)

/-- One step: one poll, sample or bit cell on the line, one dispatch, one jump test, or the validator's answer. After a
transfer of control there is none (60_exceptions.md R233). -/
def step (s : State) : Host.Outcome State Fault Refusal :=
  if s.transferred then .fault .operationEnded
  else
    match s.seq with
    | .assemble => .next s.assembleStep
    | .dispatch => dispatchStep s
    | .reply => .next s.replyStep
    | .jumpTest => .next s.jumpTest
    | .handoff => .next s.handoff

/-- `s` with an opcode-table word received as a whole command frame, so that the next step runs it. -/
def State.withFetchWord (s : State) (nbits w : Nat) : State := s.withFrame (tableBytes nbits w)

end Sys2Proof.Machine
end

