-- ==== Sys2Proof/Machine/HostNotation.lean ====
section
/-!
DEFINITION. The spec's notation for host-sent frames (30_encoding.md R84, R85): each mnemonic stands for exact bytes, CRC
included. It describes the host, not the block.
-/

namespace Sys2Proof.Machine

/-- A span with its CRC after it, low byte first: `c(...)` of R84. -/
def withCrc (span : List Byte) : List Byte := span ++ crcBytes span

/-- The mnemonics of R84. -/
inductive HostFrame where
  | run (a1 a2 a3 : Byte)
  | progFlash (p1 : Byte)
  | eraseFlash (p1 : Byte)
  /-- `n` is 1 to 256. -/
  | readFlash (n : Nat)
  | readEeprom
  | keepAlive (p1 : Byte)
  /-- `n` is 0 to 256. -/
  | setBuffer (n : Nat)
  | setAddress (off : U16)
  | payload (d : List Byte)
  | bytes (b : List Byte)
  | probe
  deriving DecidableEq, Repr

/-- The bytes a mnemonic stands for (R84). -/
def hostBytes : HostFrame → List Byte
  | .run a1 a2 a3 => [0x00, a1, a2, a3]
  | .progFlash p1 => withCrc [0x01, p1]
  | .eraseFlash p1 => withCrc [0x02, p1]
  | .readFlash n => withCrc [0x03, BitVec.ofNat 8 n]
  | .readEeprom => [0x04]
  | .keepAlive p1 => withCrc [0xFD, p1]
  | .setBuffer n => withCrc (if n = 256 then [0xFE, 0x00, 0x01, 0x00] else [0xFE, 0x00, 0x00, BitVec.ofNat 8 n])
  | .setAddress off => withCrc [0xFF, 0x00, crcHigh off, crcLow off]
  | .payload d => withCrc d
  | .bytes b => b
  | .probe => [0, 0, 0, 0, 0, 0, 0, 0, 0x0D, 0x42, 0x4C, 0x48, 0x65, 0x6C, 0x69, 0xF4, 0x7D]

/-- `WRITE_BLOCK off, d0..dn-1`: the separate messages (R85). -/
def writeBlock (off : U16) (d : List Byte) : List (List Byte) :=
  [hostBytes (.setAddress off), hostBytes (.setBuffer d.length), hostBytes (.payload d), hostBytes (.progFlash 0x01)]

/-- `READ_BLOCK off, n` (R85). -/
def readBlock (off : U16) (n : Nat) : List (List Byte) := [hostBytes (.setAddress off), hostBytes (.readFlash n)]

/-- `BOOT` (R85). -/
def boot : List (List Byte) := [hostBytes (.run 0 0 0)]

end Sys2Proof.Machine
end

