-- ==== Sys2Proof/Safety.lean ====
section
/-!
DEFINITION. The terms claims are stated in: runs, the protocol register set, what a command leaves alone, how it ends,
and the invariant of the reachable states.
-/

namespace Sys2Proof.Machine

/-! ### Runs -/

/-- `k` steps, if each gives a next state. -/
def runSteps : Nat → State → Option State
  | 0, s => some s
  | k + 1, s =>
    match step s with
    | .next t => runSteps k t
    | .fault _ => none
    | .refused _ => none

/-- How many steps the reply takes that is about to be sent: the settle delay, ten for each byte, the closing
`EnterRX()`; none if there is no reply. -/
def replySteps (s : State) : Nat :=
  match s.tx with
  | .enterTx r => 10 * r.length + 2
  | _ => 0

/-- An instruction served: its meaning, and then the steps of its reply. -/
def serve (i : Instr) (s : State) : Option State :=
  match exec i s with
  | .next t => runSteps (replySteps t) t
  | .fault _ => none
  | .refused _ => none

/-- The instructions of a list served one after the other. -/
def serveAll : List Instr → State → Option State
  | [], s => some s
  | i :: is, s => (serve i s).bind (serveAll is)

/-! ### What a state shows -/

/-- The protocol register set with the payload buffer and the flag of READ_EEPROM (10_state.md R20, R22 to R27). -/
structure ProtocolRegs where
  currentAddress : U32
  payloadBufferSize : U16
  payloadExpected : Bool
  failScore : U16
  eepromReq : Bool
  pbuf : Vector Byte 256
  deriving DecidableEq, Repr

/-- A state's protocol registers. -/
def State.regs (s : State) : ProtocolRegs where
  currentAddress := s.currentAddress
  payloadBufferSize := s.payloadBufferSize
  payloadExpected := s.payloadExpected
  failScore := s.failScore
  eepromReq := s.eepromReq
  pbuf := s.pbuf

/-- Every byte of flash reads as before, and no flash port was called. -/
def FlashKept (s t : State) : Prop :=
  (∀ a, t.flash.read a = s.flash.read a) ∧ t.flashCalls = s.flashCalls

/-- The receive side, the pin, the timer, the peer and the end of the run are as before. -/
def TransportKept (s t : State) : Prop :=
  t.rxbuf = s.rxbuf ∧ t.rxCount = s.rxCount ∧ t.msgRcvd = s.msgRcvd ∧ t.dir = s.dir ∧ t.lineOut = s.lineOut ∧
    t.rx = s.rx ∧ t.collect = s.collect ∧ t.timerOrigin = s.timerOrigin ∧ t.peer = s.peer ∧ t.transferred = s.transferred

/-- The command goes on in `t` with the reply `r` about to be sent, and with `a` to be done after it. -/
def RepliesThen (a : AfterSend) (s t : State) (r : List Byte) : Prop :=
  TransportKept s t ∧ s.now ≤ t.now ∧ t.seq = .reply ∧ t.tx = .enterTx r ∧ t.afterSend = a

/-- The command ends in `t` with the reply `r` about to be sent. -/
def Replies (s t : State) (r : List Byte) : Prop := RepliesThen .nothing s t r

/-- The command ends in `t` with no reply: the jump test is next. -/
def EndsSilently (s t : State) : Prop :=
  TransportKept s t ∧ s.now ≤ t.now ∧ t.seq = .jumpTest ∧ t.tx = s.tx ∧
    t.afterSend = s.afterSend

/-- The block listens: it is in ASSEMBLE with the pin an input, at a place inside `read_byte`, and its run has not
ended. -/
def ListensAt (s : State) (p : ReadPhase) : Prop :=
  s.seq = .assemble ∧ s.dir = .rx ∧ s.rx = .reading p ∧ s.transferred = false

/-- The level on the line at time `t` while the block listens: the peer's drive, or 1 (41_transport.md R128). -/
def lineAt (s : State) (t : Nat) : Level := decide (peerAt t s.peer .released ≠ .low)

/-- The addresses of the `n` bytes from `a` on (20_memory.md R52). -/
def InRange (a : U32) (n x : Nat) : Prop := ∃ i, i < n ∧ x = flashAddress a i

/-- The CRC span of an instruction and the CRC bytes its frame carries, if it checks a CRC (30_encoding.md R80). -/
def crcSpan : Instr → Option (List Byte × Byte × Byte)
  | .run _ _ _ => none
  | .progFlash p1 lo hi => some ([0x01, p1], lo, hi)
  | .eraseFlash p1 lo hi => some ([0x02, p1], lo, hi)
  | .readFlash p1 lo hi => some ([0x03, p1], lo, hi)
  | .readEeprom => none
  | .keepAlive p1 lo hi => some ([0xFD, p1], lo, hi)
  | .setBuffer x p2 p3 lo hi => some ([0xFE, x, p2, p3], lo, hi)
  | .setAddress x p2 p3 lo hi => some ([0xFF, x, p2, p3], lo, hi)
  | .unknown _ => none
  | .rawPayload data lo hi => some (data, lo, hi)
  | .deviceProbe _ => none

/-- A byte sequence with bit `i` of byte `k` flipped. -/
def flipBit (s : List Byte) (k i : Nat) : List Byte := s.modify k fun b => b ^^^ (1#8 <<< i)

/-! ### The invariant -/

/-- What holds while an assembly collects bytes (42_assembly.md R141 to R143): the mode is the one sampled, and the
message is still short of its end. -/
def CollectOk (s : State) : Prop :=
  match s.collect with
  | .command => s.payloadExpected = false ∧ s.rxCount < 258
  | .payload n => s.payloadExpected = true ∧ n = s.payloadBufferSize.toNat + 2 ∧ s.rxCount < n

/-- What holds at each place inside `read_byte`: the timer was reset by now, and there are eight data bits (R113,
R116). -/
def ReadPhaseOk : ReadPhase → Prop
  | .enter => True
  | .idleWait => True
  | .startWait => True
  | .startCheck => True
  | .dataBit i _ => i < 8
  | .stopCheck _ => True

/-- What holds at each place inside `Send` (44_responses.md R200; 41_transport.md R111, R118): the string has 1 to 259
bytes, the pin is an output from `EnterTX()` on, and the line is high outside the cells of a character. -/
def TxPhaseOk (s : State) : Prop :=
  match s.tx with
  | .idle => False
  | .enterTx r => 1 ≤ r.length ∧ r.length ≤ 259 ∧ s.dir = .rx ∧ s.lineOut = true
  | .startCell _ _ => s.dir = .tx ∧ s.lineOut = true
  | .dataCell i _ _ => i < 8 ∧ s.dir = .tx
  | .stopCell _ => s.dir = .tx
  | .enterRx => s.dir = .tx ∧ s.lineOut = true

/-- What holds in each state of the sequencer. -/
def SequencerOk (s : State) : Prop :=
  match s.seq with
  | .assemble =>
    s.dir = .rx ∧ s.lineOut = true ∧ s.tx = .idle ∧ ∀ p, s.rx = .reading p → CollectOk s ∧ ReadPhaseOk p
  | .dispatch => s.dir = .rx ∧ s.lineOut = true ∧ s.tx = .idle ∧ s.rx = .clear ∧ 1 ≤ s.rxCount
  | .reply => s.rx = .clear ∧ TxPhaseOk s
  | .jumpTest => s.dir = .rx ∧ s.lineOut = true ∧ s.tx = .idle ∧ s.rx = .clear
  | .handoff => s.dir = .rx ∧ s.lineOut = true ∧ s.tx = .idle ∧ s.rx = .clear ∧ s.jumpRequested = true

/-- The invariant of the block. -/
structure State.Inv (s : State) : Prop where
  /-- `PAYLOAD_BUFFER_SIZE` is 0 to 256 (10_state.md R23). -/
  size_le : s.payloadBufferSize.toNat ≤ 256
  /-- `RXCOUNT` is 0 to 258 (R29). -/
  count_le : s.rxCount ≤ 258
  /-- `MSG_RCVD` is 1 exactly when `RXCOUNT >= 1` (R29). -/
  rcvd_iff : s.msgRcvd = decide (1 ≤ s.rxCount)
  /-- A `RXBUF` offset at or beyond the length of the current message reads 0x00 (R28). -/
  rxbuf_tail : ∀ k, s.rxCount ≤ k → s.rxbuf.toList.getD k 0 = 0
  /-- Outside payload mode, and while the ACK of a payload is sent, `PBUF` holds the last payload and zeros after it (R27,
  43_commands.md R166). -/
  pbuf_tail : s.payloadExpected = false ∨ s.afterSend = .leavePayloadMode →
    ∀ k, s.payloadBufferSize.toNat ≤ k → s.pbuf.toList.getD k 0 = 0
  /-- The flash contents are in canonical form. -/
  flash_wf : s.flash.wf
  /-- The timer was last reset in the past (00_scope.md R13). -/
  timer_le : s.timerOrigin ≤ s.now
  /-- The pin, the positions and the message agree with the sequencer (R33; 41_transport.md R126). -/
  seq_ok : SequencerOk s
  /-- Something waits for `Send` to return only in REPLY (43_commands.md R162, R177). -/
  afterSend_reply : s.seq ≠ .reply → s.afterSend = .nothing
  /-- Payload mode lasts until the ACK of the payload has been sent (43_commands.md R162). -/
  afterSend_mode : s.afterSend = .leavePayloadMode → s.payloadExpected = true
  /-- Control is only ever transferred from HANDOFF (60_exceptions.md R233). -/
  transferred_handoff : s.transferred = true → s.seq = .handoff

end Sys2Proof.Machine
end

