-- ==== Sys2Proof/Certificates/Slice0/Obligations.lean ====
section
/-!
DEFINITION. The statements for the provers, each a proposition about the model. A docstring names the rule or the section
of spec/ it formalises, and says where it rests on a decision of the spec (92_eei_decisions.md) or on a choice of the model
(the assumption log).
-/

open Sys2Proof Sys2Proof.Machine

/-! ### Encoding -/

/-- 30_encoding.md sections 3 to 6: no bit of a format is dropped. Decoding what a well-formed instruction encodes to,
in the mode its frame is taken in, gives it back. -/
def Obligations.DecodeEncodeRoundTrip : Prop :=
  ∀ i : Instr, WellFormed i → decode i.frameMode (encode i) = .ok i

/-- 30_encoding.md section 6: whatever the decoder answers is well formed. -/
def Obligations.DecodedIsWellFormed : Prop :=
  ∀ (m : FrameMode) (f : List Byte) (i : Instr), decode m f = .ok i → WellFormed i

/-- 30_encoding.md section 3 (short frames, inferred by the spec from 10_state.md R28): a frame and the receive buffer
that holds it, filled up with zeros, decode alike. -/
def Obligations.ZeroFillDecodesAlike : Prop :=
  ∀ (m : FrameMode) (f : List Byte) (k : Nat), f ≠ [] → f.length + k ≤ 258 →
    decode m (f ++ List.replicate k 0) = decode m f

/-- 30_encoding.md section 7, section 6 with section 3 for the command map (bytes after a format ignored, 43_commands.md
section 3), and 43_commands.md section 1 for the probe (the source's property of the site at 16; the sites at 20 and 40
by decision D24, log entry 12; that the instruction names the first site that matches is log entry 25): the selection
order. In payload mode nothing but the size is examined; in command mode the probe's marker and tags are looked for
before byte 0, whatever byte 0 is; where no site has them, byte 0 selects by the command map, with the fields at offsets
1 to 5, whatever follows. -/
def Obligations.SelectionOrderOfDecoder : Prop :=
  ∀ f : List Byte, f ≠ [] → f.length ≤ 258 →
    (∀ n, n ≤ 256 → ∃ data lo hi, data.length = n ∧ (∀ k, k < n → data.getD k 0 = f.getD k 0) ∧ lo = f.getD n 0 ∧
      hi = f.getD (n + 1) 0 ∧ decode (.payload n) f = .ok (.rawPayload data lo hi)) ∧
    decode .command f = .ok (
      if f.getD 16 0 = 0x7D ∧ f.getD 8 0 = 13 ∧ f.getD 9 0 = 66 then .deviceProbe ⟨16, 8, 9⟩
      else if f.getD 20 0 = 0x7D ∧ f.getD 12 0 = 13 ∧ f.getD 13 0 = 66 then .deviceProbe ⟨20, 12, 13⟩
      else if f.getD 40 0 = 0x7D ∧ f.getD 32 0 = 13 ∧ f.getD 33 0 = 66 then .deviceProbe ⟨40, 32, 33⟩
      else match (f.getD 0 0).toNat with
      | 0x00 => .run (f.getD 1 0) (f.getD 2 0) (f.getD 3 0)
      | 0x01 => .progFlash (f.getD 1 0) (f.getD 2 0) (f.getD 3 0)
      | 0x02 => .eraseFlash (f.getD 1 0) (f.getD 2 0) (f.getD 3 0)
      | 0x03 => .readFlash (f.getD 1 0) (f.getD 2 0) (f.getD 3 0)
      | 0x04 => .readEeprom
      | 0xFD => .keepAlive (f.getD 1 0) (f.getD 2 0) (f.getD 3 0)
      | 0xFE => .setBuffer (f.getD 1 0) (f.getD 2 0) (f.getD 3 0) (f.getD 4 0) (f.getD 5 0)
      | 0xFF => .setAddress (f.getD 1 0) (f.getD 2 0) (f.getD 3 0) (f.getD 4 0) (f.getD 5 0)
      | _ => .unknown (f.getD 0 0))

/-- 43_commands.md section 1 (a corner case the spec derives): a message that matches a probe site has at least 17
bytes. -/
def Obligations.ProbeNeedsSeventeenBytes : Prop :=
  ∀ (f : List Byte) (p : ProbeSite), probeMatch f = some p → 17 ≤ f.length

/-- 30_encoding.md section 8: the spec's notation for host frames decodes to the command it names, with a CRC that
verifies. -/
def Obligations.HostFramesDecodeWithGoodCrc : Prop :=
  (∀ p1, ∃ lo hi, decode .command (hostBytes (.progFlash p1)) = .ok (.progFlash p1 lo hi) ∧
    verify [0x01, p1] lo hi = true) ∧
  (∀ p1, ∃ lo hi, decode .command (hostBytes (.eraseFlash p1)) = .ok (.eraseFlash p1 lo hi) ∧
    verify [0x02, p1] lo hi = true) ∧
  (∀ n, 1 ≤ n → n ≤ 256 → ∃ p1 lo hi, decode .command (hostBytes (.readFlash n)) = .ok (.readFlash p1 lo hi) ∧
    verify [0x03, p1] lo hi = true ∧ outSize p1 = n) ∧
  (∀ p1, ∃ lo hi, decode .command (hostBytes (.keepAlive p1)) = .ok (.keepAlive p1 lo hi) ∧
    verify [0xFD, p1] lo hi = true) ∧
  (∀ n, n ≤ 256 → ∃ x p2 p3 lo hi, decode .command (hostBytes (.setBuffer n)) = .ok (.setBuffer x p2 p3 lo hi) ∧
    verify [0xFE, x, p2, p3] lo hi = true ∧ (bufferSize p2 p3).toNat = n) ∧
  (∀ off, ∃ x p2 p3 lo hi, decode .command (hostBytes (.setAddress off)) = .ok (.setAddress x p2 p3 lo hi) ∧
    verify [0xFF, x, p2, p3] lo hi = true ∧ (addressOffset p2 p3).toNat = off.toNat) ∧
  (∀ d, d.length ≤ 256 → ∃ lo hi, decode (.payload d.length) (hostBytes (.payload d)) = .ok (.rawPayload d lo hi) ∧
    verify d lo hi = true) ∧
  decode .command (hostBytes .probe) = .ok (.deviceProbe ⟨16, 8, 9⟩)

/-- 30_encoding.md section 6: words written out from the command map decode to their commands. The frames are those of
95_test_vectors.md V-K4, V-K14, V-K16, V-K25 and V-K10. -/
def Obligations.CommandWordsDecode : Prop :=
  decode .command [0x01, 0x01, 0xC0, 0x50] = .ok (.progFlash 0x01 0xC0 0x50) ∧
  decode .command [0xFE, 0x00, 0x02, 0x07, 0x71, 0x4A] = .ok (.setBuffer 0x00 0x02 0x07 0x71 0x4A) ∧
  decode .command [0xFF, 0x00, 0x10, 0x00, 0x3D, 0xD4] = .ok (.setAddress 0x00 0x10 0x00 0x3D 0xD4) ∧
  decode .command [0xFC, 0x12, 0x34] = .ok (.unknown 0xFC) ∧
  decode .command [0x04] = .ok .readEeprom

/-- 30_encoding.md R81: the operand values and their ranges, as numbers. -/
def Obligations.OperandValuesAreUnsigned : Prop :=
  (∀ p1 : Byte, 1 ≤ outSize p1 ∧ outSize p1 ≤ 256 ∧ outSize p1 % 256 = p1.toNat) ∧
  (∀ p2 p3 : Byte, (bufferSize p2 p3).toNat = if p2.toNat = 1 then 256 else p3.toNat) ∧
  (∀ p2 p3 : Byte, (addressOffset p2 p3).toNat = p2.toNat * 256 + p3.toNat) ∧
  (∀ p2 p3 : Byte, (targetAddress p2 p3).toNat =
    (Config.flashBase.toNat + (p2.toNat * 256 + p3.toNat) * 2 ^ Config.addressShift.amount) % 2 ^ 32) ∧
  (∀ lo hi : Byte, (crcField lo hi).toNat = lo.toNat + hi.toNat * 256) ∧
  (∀ a1 a2 a3 : Byte, zeroArgs a1 a2 a3 = true ↔ a1.toNat = 0 ∧ a2.toNat = 0 ∧ a3.toNat = 0)

/-! ### CRC -/

/-- 40_crc.md R101. -/
def Obligations.CrcOfEmptyIsZero : Prop := crc16 [] = 0

/-- 40_crc.md R102 (derived by the spec): the byte-at-a-time form computes the same value. -/
def Obligations.CrcByteWiseAgrees : Prop := ∀ s : List Byte, crc16ByteWise s = crc16 s

/-- 40_crc.md R105 (derived by the spec): a good frame, span plus CRC, has CRC 0. -/
def Obligations.CrcResidueIsZero : Prop := ∀ s : List Byte, crc16 (s ++ crcBytes s) = 0

/-- 40_crc.md R106: `verify` holds of exactly the two bytes `crc16` gives, and of no single-bit alteration of the data
or of the two CRC bytes. -/
def Obligations.VerifyDetectsEverySingleBit : Prop :=
  (∀ (s : List Byte) (lo hi : Byte), verify s lo hi = true ↔ [lo, hi] = crcBytes s) ∧
  (∀ (s : List Byte) (k i : Nat) (lo hi : Byte), k < s.length → i < 8 → verify s lo hi = true →
    verify (flipBit s k i) lo hi = false ∧ verify s (lo ^^^ (1#8 <<< i)) hi = false ∧
      verify s lo (hi ^^^ (1#8 <<< i)) = false)

/-- 40_crc.md R104 with 30_encoding.md R81: comparing byte by byte is comparing the 16-bit values. -/
def Obligations.VerifyComparesTheCrcField : Prop :=
  ∀ (s : List Byte) (lo hi : Byte), verify s lo hi = decide (crc16 s = crcField lo hi)

/-! ### The transport -/

/-- 41_transport.md section 4, 10_state.md section 5: while the block listens, the pin shows the pull-up when the peer
does not drive, and the peer's drive when it does. -/
def Obligations.ReceiveLevelIsPeerOrPullUp : Prop :=
  ∀ s : State, s.dir = .rx → (s.peerDrive = .released → s.pinLevel = true) ∧
    (s.peerDrive = .high → s.pinLevel = true) ∧ (s.peerDrive = .low → s.pinLevel = false)

/-- 41_transport.md section 2, step 1 (timing by decisions D3 and D21, what a step is by log entry 15; vector V-T5): a
line low from the entry of `read_byte` through 20,001 microseconds gives IdleTimeout then and not before: `FAIL_SCORE`
becomes 101, the message is aborted, and the jump test is next. -/
def Obligations.LowLineTimesOutAfterTwentyMs : Prop :=
  ∀ s : State, ListensAt s .enter → (∀ d, d ≤ 20001 → lineAt s (s.now + d) = false) →
    ∃ t, runSteps 20003 s = some t ∧ t.now = s.now + 20001 ∧ t.seq = .jumpTest ∧
      t.regs = { s.regs with failScore := 101 } ∧ FlashKept s t ∧
      ∀ k u, k < 20003 → runSteps k s = some u → u.seq = .assemble ∧ u.regs = s.regs

/-- 41_transport.md section 2, step 2, and 42_assembly.md, command collection (timing by D2, D3 and D21, what a step is
by log entry 15; vectors V-T7, V-A2): after at least one byte, a line high from the entry through 251 microseconds ends
the message then and not before: a command message goes to dispatch as it stands. -/
def Obligations.GapCompletesCommandMessage : Prop :=
  ∀ s : State, ListensAt s .enter → s.msgRcvd = true → s.collect = .command →
    (∀ d, d ≤ 251 → lineAt s (s.now + d) = true) →
    ∃ t, runSteps 254 s = some t ∧ t.now = s.now + 251 ∧ t.seq = .dispatch ∧ t.regs = s.regs ∧ t.rxbuf = s.rxbuf ∧
      t.rxCount = s.rxCount ∧ ∀ k u, k < 254 → runSteps k s = some u → u.seq = .assemble

/-- 42_assembly.md, payload collection (decisions D23, D2 and D21, what a step is by log entry 15; vector V-A8): the
same gap inside a payload aborts it, with no reply and no register changed, so that payload mode stays. -/
def Obligations.GapAbortsPayload : Prop :=
  ∀ (s : State) (n : Nat), ListensAt s .enter → s.msgRcvd = true → s.collect = .payload n →
    (∀ d, d ≤ 251 → lineAt s (s.now + d) = true) →
    ∃ t, runSteps 254 s = some t ∧ t.now = s.now + 251 ∧ t.seq = .jumpTest ∧ t.regs = s.regs ∧ FlashKept s t

/-- 41_transport.md section 2, step 2, and 60_exceptions.md section 5 (poll interval by decision D3, what a step is by
log entry 15; vector V-T8): with no byte yet and the line high, the block only waits, for as long as that lasts. -/
def Obligations.QuietLineWaitsForever : Prop :=
  ∀ (s : State) (k : Nat), ListensAt s .startWait → s.msgRcvd = false →
    (∀ d, d < k → lineAt s (s.now + d) = true) → runSteps k s = some (s.wait k)

/-- 41_transport.md sections 2 and 4 (the loopback property; sample instants by D1 and D3, what a step is by log entry
15): a character whose cells the line carries from the detected edge on is received as its byte, 494 microseconds after
the edge, and stored at `RXBUF[RXCOUNT]`. -/
def Obligations.CharacterOnLineIsReceived : Prop :=
  ∀ (s : State) (b : Byte), ListensAt s .startWait → s.rxCount < 258 →
    (∀ k d, k ≤ 9 → d < 52 → lineAt s (s.now + 52 * k + d) = charCell b k) →
    ∃ t, runSteps 11 s = some t ∧ t.now = s.now + 494 ∧ t.rxbuf = s.rxbuf.setIfInBounds s.rxCount b ∧
      t.rxCount = s.rxCount + 1 ∧ t.msgRcvd = true ∧ FlashKept s t

/-- 41_transport.md sections 2 and 4 (the loopback property's second half; sample instants by D1 and D3, what a step is
by log entry 15; vectors V-T9, V-T10): a character whose stop sample is low gives BadStop, and a low pulse that is over
at the start check gives BadStart: nothing is stored and the message is aborted, at the sample's time. -/
def Obligations.MisframedCharacterAborts : Prop :=
  (∀ (s : State) (b : Byte), ListensAt s .startWait →
    (∀ k d, k ≤ 8 → d < 52 → lineAt s (s.now + 52 * k + d) = charCell b k) → lineAt s (s.now + 494) = false →
    ∃ t, runSteps 11 s = some t ∧ t.now = s.now + 494 ∧ t.seq = .jumpTest ∧ t.regs = s.regs ∧ t.rxbuf = s.rxbuf ∧
      t.rxCount = s.rxCount ∧ FlashKept s t) ∧
  (∀ s : State, ListensAt s .startWait → lineAt s s.now = false → lineAt s (s.now + 26) = true →
    ∃ t, runSteps 2 s = some t ∧ t.now = s.now + 26 ∧ t.seq = .jumpTest ∧ t.regs = s.regs ∧ t.rxbuf = s.rxbuf ∧
      t.rxCount = s.rxCount ∧ FlashKept s t)

/-- 42_assembly.md, framing errors (R144): a BadStart or BadStop outcome of `read_byte`, in either mode, aborts the
message; no register changes and nothing is sent. Unless the jump is requested, the next assembly's clear (decision D11)
discards the bytes received: it is done two steps later (what a step is by log entry 15). -/
def Obligations.FramingErrorAbortsSilently : Prop :=
  ∀ (s u : State) (p : ReadPhase) (r : ReadOutcome), ListensAt s p → readByteStep p s = .done r u →
    r = .badStart ∨ r = .badStop →
    ∃ t, step s = .next t ∧ t.seq = .jumpTest ∧ t.tx = s.tx ∧ t.regs = s.regs ∧ t.rxbuf = s.rxbuf ∧
      t.rxCount = s.rxCount ∧ FlashKept s t ∧
      (s.failScore.toNat ≤ 100 → ∃ v, runSteps 2 t = some v ∧ v.seq = .assemble ∧ v.regs = s.regs ∧ v.rxCount = 0 ∧
        ∀ k, v.rxbuf.toList.getD k 0 = 0)

/-- 42_assembly.md R145: an IdleTimeout outcome of `read_byte`, in either mode and at any byte count, sets `FAIL_SCORE`
to 101 whatever it was, and aborts the message with no reply. -/
def Obligations.IdleTimeoutSetsTheSentinel : Prop :=
  ∀ (s u : State) (p : ReadPhase), ListensAt s p → readByteStep p s = .done .idleTimeout u →
    ∃ t, step s = .next t ∧ t.seq = .jumpTest ∧ t.tx = s.tx ∧ t.regs = { s.regs with failScore := 101 } ∧
      t.rxbuf = s.rxbuf ∧ t.rxCount = s.rxCount ∧ FlashKept s t

/-- 44_responses.md (decisions D28 and D1, what a step is by log entry 15; vectors V-T12, V-R3) and 00_scope.md section
5 (order; log entry 14 for the form): a reply of `L` bytes takes the pin for `520 * L` microseconds; after it the pin is
an input again, the output level is 1 and the jump test is next. The registers are as they were until then; what the
dispatch does after `Send`, if anything, is done at its return. -/
def Obligations.ReplyTakesTenCellsPerByte : Prop :=
  ∀ (s : State) (r : List Byte), s.seq = .reply → s.transferred = false → s.tx = .enterTx r → r ≠ [] →
    (∀ k u, k < 10 * r.length + 2 → runSteps k s = some u → u.seq = .reply ∧ u.regs = s.regs) ∧
    ∃ t, runSteps (10 * r.length + 2) s = some t ∧ t.now = s.now + 520 * r.length ∧ t.seq = .jumpTest ∧ t.dir = .rx ∧
      t.lineOut = true ∧ t.tx = .idle ∧ t.afterSend = .nothing ∧ FlashKept s t ∧
      t.regs = match s.afterSend with
        | .nothing => s.regs
        | .leavePayloadMode => { s.regs with payloadExpected := false }
        | .countUnknown => { s.regs with failScore := s.failScore + 1 }

/-- 41_transport.md section 3 and 30_encoding.md section 1 (cells and spacing; decisions D1 and D28, what a step is by
log entry 15): cell `c` of byte `k` of a reply is driven, as an output, from `52 * (1 + 10 * k + c)` microseconds after
the reply began, at the level the character format gives it. -/
def Obligations.ReplyDrivesEveryCell : Prop :=
  ∀ (s : State) (r : List Byte) (k c : Nat) (b : Byte), s.seq = .reply → s.transferred = false → s.tx = .enterTx r →
    r[k]? = some b → c ≤ 9 →
    ∃ u t, runSteps (1 + 10 * k + c) s = some u ∧ u.now = s.now + 52 * (1 + 10 * k + c) ∧ step u = .next t ∧
      t.dir = .tx ∧ t.lineOut = charCell b c

/-! ### Assembly -/

/-- 42_assembly.md, start of assembly (cleared by decision D11): an assembly starts with the buffer cleared, nothing
counted, and the mode and length that the registers give. -/
def Obligations.AssemblyStartsCleared : Prop :=
  ∀ s : State, s.seq = .assemble → s.transferred = false → s.rx = .clear →
    ∃ t, step s = .next t ∧ (∀ k, t.rxbuf.toList.getD k 0 = 0) ∧ t.rxCount = 0 ∧ t.msgRcvd = false ∧
      t.collect = (if s.payloadExpected then .payload (s.payloadBufferSize.toNat + 2) else .command) ∧
      t.seq = .assemble ∧ t.rx = .reading .enter ∧ t.regs = s.regs ∧ FlashKept s t

/-- 42_assembly.md, command collection and overrun (decision D22): a byte before the 258th is stored and counted, and
the block enters the next `read_byte` with its registers unchanged; the byte that fills the 258-byte cap adds 20 to
`FAIL_SCORE`, modulo 2^16 (decision D8), and the message goes to dispatch. -/
def Obligations.CommandByteIsStoredOrOverruns : Prop :=
  ∀ (s : State) (b : Byte), ListensAt s (.stopCheck b) → s.collect = .command → s.rxCount < 258 →
    lineAt s (s.now + 52) = true →
    ∃ t, step s = .next t ∧ t.rxCount = s.rxCount + 1 ∧ t.msgRcvd = true ∧
      t.rxbuf = s.rxbuf.setIfInBounds s.rxCount b ∧ FlashKept s t ∧
      if s.rxCount = 257 then t.seq = .dispatch ∧ t.regs = { s.regs with failScore := s.failScore + 20 }
      else t.seq = .assemble ∧ t.rx = .reading .enter ∧ t.collect = .command ∧ t.regs = s.regs

/-- 42_assembly.md, payload collection: the `n`-th byte completes the message at once, with no penalty; any byte before
it leaves the block collecting. -/
def Obligations.PayloadEndsByCount : Prop :=
  ∀ (s : State) (b : Byte) (n : Nat), ListensAt s (.stopCheck b) → s.collect = .payload n → n ≤ 258 → s.rxCount < n →
    lineAt s (s.now + 52) = true →
    ∃ t, step s = .next t ∧ t.rxCount = s.rxCount + 1 ∧ t.msgRcvd = true ∧
      t.rxbuf = s.rxbuf.setIfInBounds s.rxCount b ∧ t.regs = s.regs ∧ FlashKept s t ∧
      if s.rxCount + 1 = n then t.seq = .dispatch
      else t.seq = .assemble ∧ t.rx = .reading .enter ∧ t.collect = .payload n

/-! ### Commands: each completes, with its effect and its frame -/

/-- 43_commands.md section 4 (RUN; decision D26 for the silence and for other arguments): with zero arguments
`FAIL_SCORE` becomes 101; nothing else changes and nothing is sent. -/
def Obligations.RunRequestsJump : Prop :=
  ∀ (a1 a2 a3 : Byte) (s : State), ∃ t, exec (.run a1 a2 a3) s = .next t ∧ EndsSilently s t ∧ FlashKept s t ∧
    t.regs = if a1 = 0 ∧ a2 = 0 ∧ a3 = 0 then { s.regs with failScore := 101 } else s.regs

/-- 43_commands.md section 4 (PROG_FLASH; registers kept by decision D10, contents by the environment model D15, free
bytes on failure by I7, addresses modulo 2^32 by log entry 19): at a writable address and with a good CRC there is
exactly one flash write, of the payload to the address, and the reply is ACK or NACK by its result. Every byte outside
the written range reads as before; on success byte `i` of the range reads byte `i` of the payload. -/
def Obligations.ProgFlashWritesThePayload : Prop :=
  ∀ (p1 lo hi : Byte) (s : State), verify [0x01, p1] lo hi = true → writable s.currentAddress = true → s.flash.wf →
    ∃ t, exec (.progFlash p1 lo hi) s = .next t ∧ t.regs = s.regs ∧
      t.flashCalls = .write s.currentAddress (s.pbuf.toList.take s.payloadBufferSize.toNat) :: s.flashCalls ∧
      Replies s t [if Config.flashWriteOk s.draws then 0x30 else 0xC1] ∧
      (∀ x, ¬ InRange s.currentAddress (s.pbuf.toList.take s.payloadBufferSize.toNat).length x →
        t.flash.read x = s.flash.read x) ∧
      (Config.flashWriteOk s.draws = true → ∀ i b, (s.pbuf.toList.take s.payloadBufferSize.toNat)[i]? = some b →
        t.flash.read (flashAddress s.currentAddress i) = b)

/-- 43_commands.md sections 3 and 4, 20_memory.md section 2 (the gate; NACK as BAD_ACK by decision D6, the start address
alone by D14): with a good CRC, PROG_FLASH calls the flash write port exactly when its start address is not below
`APP_BASE`; below it the reply is NACK, no port is called and no flash byte changes. -/
def Obligations.GateDecidesProgFlash : Prop :=
  ∀ (p1 lo hi : Byte) (s : State), verify [0x01, p1] lo hi = true →
    ∃ t, exec (.progFlash p1 lo hi) s = .next t ∧ t.regs = s.regs ∧
      if s.currentAddress.toNat < Config.appBase.toNat then Replies s t [0xC1] ∧ FlashKept s t
      else t.flashCalls = .write s.currentAddress (s.pbuf.toList.take s.payloadBufferSize.toNat) :: s.flashCalls

/-- 43_commands.md section 4 (ERASE_FLASH; NACK as BAD_ACK by decision D6): with a good CRC it answers ACK at a writable
address and NACK below, calls no port and changes no flash byte. -/
def Obligations.EraseFlashOnlyAcknowledges : Prop :=
  ∀ (p1 lo hi : Byte) (s : State), verify [0x02, p1] lo hi = true →
    ∃ t, exec (.eraseFlash p1 lo hi) s = .next t ∧ t.regs = s.regs ∧ FlashKept s t ∧
      Replies s t [if Config.appBase.toNat ≤ s.currentAddress.toNat then 0x30 else 0xC1]

/-- 43_commands.md section 4 (READ_FLASH), 44_responses.md (what the bytes are by decision D15, addresses modulo 2^32 by
D13): with a good CRC, READ_FLASH calls `MemRead` once, for 1 to 256 bytes, at any address, and answers the data, their
CRC low byte first, and ACK; with a bad one it answers BADCRC. No register and no flash byte changes. -/
def Obligations.ReadFlashAnswersTheBytes : Prop :=
  ∀ (p1 lo hi : Byte) (s : State), ∃ t, exec (.readFlash p1 lo hi) s = .next t ∧ t.regs = s.regs ∧
    (∀ x, t.flash.read x = s.flash.read x) ∧
    if verify [0x03, p1] lo hi then
      t.flashCalls = .read s.currentAddress (if p1 = 0 then 256 else p1.toNat) :: s.flashCalls ∧
      ∃ d : List Byte, d.length = (if p1 = 0 then 256 else p1.toNat) ∧
        (∀ i, i < d.length → d[i]? = some (s.flash.read (s.currentAddress + BitVec.ofNat 32 i).toNat)) ∧
        Replies s t (d ++ [(crc16 d).extractLsb' 0 8, (crc16 d).extractLsb' 8 8, 0x30])
    else t.flashCalls = s.flashCalls ∧ Replies s t [0xC2]

/-- 43_commands.md section 4 (READ_EEPROM; the silence is derived by the spec): the flag is set, nothing else changes,
nothing is sent. -/
def Obligations.ReadEepromSetsTheFlag : Prop :=
  ∀ s : State, ∃ t, exec .readEeprom s = .next t ∧ t.regs = { s.regs with eepromReq := true } ∧ FlashKept s t ∧
    EndsSilently s t

/-- 43_commands.md R174 (its Replies sentence, which resolves conflict C4): KEEP_ALIVE answers NACK on a good CRC and
BADCRC on a bad one, and changes no register. -/
def Obligations.KeepAliveNeverAcks : Prop :=
  ∀ (p1 lo hi : Byte) (s : State), ∃ t, exec (.keepAlive p1 lo hi) s = .next t ∧ t.regs = s.regs ∧ FlashKept s t ∧
    Replies s t [if verify [0xFD, p1] lo hi then 0xC1 else 0xC2]

/-- 43_commands.md R175: with a good CRC, SET_BUFFER sets the size, 256 if byte 2 is 1 and else byte 3, enters payload
mode and sends nothing; with a bad one it answers BADCRC and changes nothing. -/
def Obligations.SetBufferEntersPayloadMode : Prop :=
  ∀ (x p2 p3 lo hi : Byte) (s : State), ∃ t, exec (.setBuffer x p2 p3 lo hi) s = .next t ∧ FlashKept s t ∧
    if verify [0xFE, x, p2, p3] lo hi then
      EndsSilently s t ∧
      t.regs = { s.regs with
        payloadBufferSize := if p2 = 1 then 256 else BitVec.ofNat 16 p3.toNat, payloadExpected := true }
    else Replies s t [0xC2] ∧ t.regs = s.regs

/-- 43_commands.md R176: with a good CRC, SET_ADDRESS sets `CURRENT_ADDRESS` to the base plus the shifted big-endian
offset, modulo 2^32, and answers ACK; with a bad one it answers BADCRC and changes nothing. -/
def Obligations.SetAddressComputesTheAddress : Prop :=
  ∀ (x p2 p3 lo hi : Byte) (s : State), ∃ t, exec (.setAddress x p2 p3 lo hi) s = .next t ∧ FlashKept s t ∧
    if verify [0xFF, x, p2, p3] lo hi then
      Replies s t [0x30] ∧
      t.regs = { s.regs with
        currentAddress := BitVec.ofNat 32
          (Config.flashBase.toNat + (p2.toNat * 256 + p3.toNat) * 2 ^ Config.addressShift.amount) }
    else Replies s t [0xC2] ∧ t.regs = s.regs

/-- 43_commands.md section 4 (the unknown command) and 00_scope.md section 5 (order): an unknown code answers NACK and
then adds 1 to `FAIL_SCORE` modulo 2^16; nothing else changes. In every step of the reply the score is still the old one
(log entry 14 for the form, what a step is by log entry 15). -/
def Obligations.UnknownCommandCounts : Prop :=
  ∀ (c : Byte) (s : State), ∃ t, exec (.unknown c) s = .next t ∧ FlashKept s t ∧
    RepliesThen .countUnknown s t [0xC1] ∧ t.regs = s.regs ∧
    (s.transferred = false →
      (∀ k v, k < 12 → runSteps k t = some v → v.seq = .reply ∧ v.regs = s.regs) ∧
      ∃ u, runSteps 12 t = some u ∧ u.seq = .jumpTest ∧ FlashKept s u ∧
        u.regs = { s.regs with failScore := BitVec.ofNat 16 (s.failScore.toNat + 1) })

/-- 43_commands.md section 2 (RAW_PAYLOAD; `FAIL_SCORE` kept by decision D27) and 00_scope.md section 5 (order): with a
good CRC the payload buffer is cleared and then holds the data from offset 0, the reply is ACK, and when it has been
sent payload mode ends; in every step of the reply it still lasts (log entry 14 for the form, what a step is by log
entry 15). No flash byte changes. -/
def Obligations.GoodPayloadIsCaptured : Prop :=
  ∀ (data : List Byte) (lo hi : Byte) (s : State), data.length ≤ 256 → verify data lo hi = true →
    ∃ t, exec (.rawPayload data lo hi) s = .next t ∧ FlashKept s t ∧ RepliesThen .leavePayloadMode s t [0x30] ∧
      (∀ k, t.pbuf.toList.getD k 0 = data.getD k 0) ∧ t.regs = { s.regs with pbuf := t.pbuf } ∧
      (s.transferred = false →
        (∀ k v, k < 12 → runSteps k t = some v → v.seq = .reply ∧ v.regs = t.regs) ∧
        ∃ u, runSteps 12 t = some u ∧ u.seq = .jumpTest ∧ FlashKept s u ∧
          u.regs = { t.regs with payloadExpected := false })

/-- 43_commands.md section 1 (DEVICE_PROBE) and 44_responses.md (byte 2 by decision D29): a probe answers the nine bytes
of the identity record and changes nothing. -/
def Obligations.ProbeAnswersIdentityRecord : Prop :=
  ∀ (p : ProbeSite) (s : State), ∃ t, exec (.deviceProbe p) s = .next t ∧ t.regs = s.regs ∧ FlashKept s t ∧
    Replies s t Config.devInfo ∧ Config.devInfo.length = 9 ∧
    (Config.devInfo.getD 2 0).toNat = Config.pinPort.toNat * 16 + Config.pinNumber.toNat

/-- 43_commands.md section 3 (`FAIL_SCORE` kept by decision D27): whatever command or payload fails its CRC check, its
one effect is the BADCRC reply: no register changes, no flash byte changes, no port is called. -/
def Obligations.BadCrcMutatesNothing : Prop :=
  ∀ (i : Instr) (span : List Byte) (lo hi : Byte) (s : State), crcSpan i = some (span, lo, hi) →
    verify span lo hi = false →
    ∃ t, exec i s = .next t ∧ t.regs = s.regs ∧ FlashKept s t ∧ Replies s t [0xC2]

/-- 43_commands.md section 1: no instruction's meaning stops the machine, and none writes the receive buffer, its count
or MSG_RCVD, the pin, the timer, or the peer. -/
def Obligations.EveryInstructionCompletes : Prop :=
  ∀ (i : Instr) (s : State), ∃ t, exec i s = .next t ∧ TransportKept s t ∧
    (t.seq = .jumpTest ∧ t.tx = s.tx ∨ t.seq = .reply ∧ ∃ r, t.tx = .enterTx r)

/-- 42_assembly.md, session loop, and 43_commands.md section 1: at a dispatch, a step is the meaning of the instruction
that the receive buffer decodes to, and nothing else. -/
def Obligations.StepRunsDecodedInstruction : Prop :=
  ∀ (s : State) (i : Instr), s.transferred = false → s.seq = .dispatch →
    decode (if s.payloadExpected then .payload s.payloadBufferSize.toNat else .command) s.rxbuf.toList = .ok i →
    WellFormed i ∧ step s = exec i s

/-- The model's own convention (log entry 18): a table word placed by `withFetchWord` is what the next step runs. -/
def Obligations.FetchWordIsRunNext : Prop :=
  ∀ (s : State) (nbits w : Nat) (i : Instr), decodeTableWord nbits w = some i →
    step (s.withFetchWord nbits w) = exec i (s.withFetchWord nbits w)

/-! ### Errors and the jump -/

/-- 60_exceptions.md section 1 (the error table; codes by decision D30, unchanged scores by D27, NO_START by C2 and D23,
overrun by D22, NACK as BAD_ACK by D6; one shared operation by log entry 26): what each cause records and answers, and
how the message goes on. E6 counts when its reply has been sent (43_commands.md section 4; log entry 14 for the form).
-/
def Obligations.ErrorActionsMatchTheTable : Prop :=
  ∀ s : State,
    ((s.handleError .idleTimeout).regs = { s.regs with failScore := 101 } ∧
      (s.handleError .idleTimeout).seq = .jumpTest) ∧
    ((s.handleError .noStart).regs = s.regs ∧
      (s.handleError .noStart).seq = if s.collect = .command then .dispatch else .jumpTest) ∧
    ((s.handleError .badStart).regs = s.regs ∧ (s.handleError .badStart).seq = .jumpTest) ∧
    ((s.handleError .badStop).regs = s.regs ∧ (s.handleError .badStop).seq = .jumpTest) ∧
    ((s.handleError .badCrc).regs = s.regs ∧ Replies s (s.handleError .badCrc) [0xC2]) ∧
    ((s.handleError .badCommand).regs = s.regs ∧ RepliesThen .countUnknown s (s.handleError .badCommand) [0xC1] ∧
      (s.handleError .badCommand).carryOut.regs = { s.regs with failScore := s.failScore + 1 }) ∧
    ((s.handleError .notWritable).regs = s.regs ∧ Replies s (s.handleError .notWritable) [0xC1]) ∧
    ((s.handleError .flashFail).regs = s.regs ∧ Replies s (s.handleError .flashFail) [0xC1]) ∧
    ((s.handleError .overrun).regs = { s.regs with failScore := s.failScore + 20 } ∧
      (s.handleError .overrun).seq = .dispatch) ∧
    ∀ e, FlashKept s (s.handleError e)

/-- 42_assembly.md R148: at the end of a message cycle the block hands off exactly when `FAIL_SCORE` is above 100, and
else starts the next assembly. -/
def Obligations.JumpTestIsAboveOneHundred : Prop :=
  ∀ s : State, s.seq = .jumpTest → s.transferred = false →
    ∃ t, step s = .next t ∧ t.regs = s.regs ∧ FlashKept s t ∧
      if 100 < s.failScore.toNat then t.seq = .handoff else t.seq = .assemble ∧ t.rx = .clear

/-- 60_exceptions.md section 5 (HANDOFF; the score after a refusal by decision D31, the answer free by I9): either
control is transferred and there is no further step, or `FAIL_SCORE` is 0, every other register keeps its value, payload
mode included, and the next assembly begins. That a step after the transfer is a fault is the model's choice (log entry
7). -/
def Obligations.HandoffTransfersOrRefuses : Prop :=
  ∀ s : State, s.seq = .handoff → s.transferred = false →
    ∃ t, step s = .next t ∧ FlashKept s t ∧
      if Config.validatorTransfers s.draws then t.regs = s.regs ∧ step t = .fault .operationEnded
      else t.regs = { s.regs with failScore := 0 } ∧ t.seq = .assemble ∧ t.rx = .clear ∧ t.transferred = false

/-- 60_exceptions.md section 5 (the source's property of the threshold): after any number of unknown commands, each
served to the end of its reply, from a score of 0, the score is that number and the jump is requested exactly when it is
above 100. -/
def Obligations.HundredAndFirstUnknownRequestsJump : Prop :=
  ∀ (codes : List Byte) (s : State), s.failScore = 0 → s.transferred = false → codes.length < 2 ^ 16 →
    ∃ t, serveAll (codes.map .unknown) s = some t ∧ t.failScore.toNat = codes.length ∧
      t.jumpRequested = decide (100 < codes.length)

/-- 60_exceptions.md section 5 (R230's list, which rests on D27 and D31): the only step that changes `FAIL_SCORE` is the
return of `Send` from the NACK of an unknown command (plus 1), a RUN with zero arguments (101), an idle timeout (101) or
an overrun (plus 20) in an assembly, or a refused jump (0; the answer is free, so no concrete state witnesses a
refusal); and only the dispatch of an unknown command begins such a NACK (log entry 14 for the form). -/
def Obligations.FailScoreChangesOnlyByListedEvents : Prop :=
  ∀ s t : State, step s = .next t →
    (t.failScore ≠ s.failScore →
      (s.seq = .reply ∧ s.afterSend = .countUnknown ∧ t.seq = .jumpTest ∧ t.afterSend = .nothing ∧
        t.failScore = s.failScore + 1) ∨
      (s.seq = .dispatch ∧ s.fetch = .ok (.run 0 0 0) ∧ t.failScore = 101) ∨
      (s.seq = .assemble ∧ s.rx = .reading .idleWait ∧ t.seq = .jumpTest ∧ t.failScore = 101) ∨
      (s.seq = .assemble ∧ (∃ b, s.rx = .reading (.stopCheck b)) ∧ t.seq = .dispatch ∧ t.rxCount = 258 ∧
        t.failScore = s.failScore + 20) ∨
      (s.seq = .handoff ∧ t.failScore = 0)) ∧
    (t.afterSend = .countUnknown → s.afterSend = .countUnknown ∨
      s.seq = .dispatch ∧ t.seq = .reply ∧ ∃ c, s.fetch = .ok (.unknown c))

/-! ### The machine as a whole -/

/-- 70_reset_and_hazards.md section 1, with 10_state.md sections 3 to 6 (DIR, LINE_OUT and seq by decisions D12 and D7,
EEPROM_REQ by D9): the values at session start. -/
def Obligations.ResetValuesAreTheSpecs : Prop :=
  State.reset.currentAddress = 0 ∧ State.reset.payloadBufferSize = 0 ∧ State.reset.payloadExpected = false ∧
  State.reset.failScore = 0 ∧ State.reset.eepromReq = false ∧ (∀ k, State.reset.pbuf.toList.getD k 0 = 0) ∧
  (∀ k, State.reset.rxbuf.toList.getD k 0 = 0) ∧ State.reset.rxCount = 0 ∧ State.reset.msgRcvd = false ∧
  State.reset.dir = .rx ∧ State.reset.lineOut = true ∧ State.reset.seq = .assemble

/-- The invariant of Sys2Proof/Safety.lean holds at session start. -/
def Obligations.ResetMeetsTheInvariant : Prop := State.reset.Inv

/-- 10_state.md sections 3 to 6, 42_assembly.md, 44_responses.md and 20_memory.md section 2: every step from every state
that meets the invariant (register ranges, the cleared buffer tail, the payload's zero tail, the pin in hand of one
owner, the positions, the canonical flash contents) gives a state that meets it. -/
def Obligations.StepKeepsTheInvariant : Prop := ∀ s t : State, s.Inv → step s = .next t → t.Inv

/-- 60_exceptions.md section 1: nothing halts the block. From a state that meets the invariant a step never refuses, and
faults only when control has been transferred for good. -/
def Obligations.OnlyTransferEndsTheRun : Prop :=
  ∀ s : State, s.Inv → (∀ r, step s ≠ .refused r) ∧ ∀ f, step s = .fault f → s.transferred = true

/-- 20_memory.md section 2 (the gate as "the single hard safety invariant"; the start address alone by decision D14): as
long as a write does not run past the top of the address space (addresses wrap there, log entry 19), no step changes a
flash byte below `APP_BASE`. -/
def Obligations.BootRegionIsNeverWritten : Prop :=
  ∀ s t : State, step s = .next t → s.currentAddress.toNat + s.payloadBufferSize.toNat ≤ 2 ^ 32 →
    ∀ a, a < Config.appBase.toNat → t.flash.read a = s.flash.read a

/-- 20_memory.md sections 1 and 2 (the environment model of the flash, decision D15; the gate, D14) and 43_commands.md
section 5: a step that changes a flash byte is the dispatch of a PROG_FLASH with a good CRC at a writable address, and
the byte lies in the payload's range (addresses modulo 2^32 by log entry 19). -/
def Obligations.FlashChangesOnlyByProgFlash : Prop :=
  ∀ s t : State, step s = .next t → ∀ a, t.flash.read a ≠ s.flash.read a →
    s.seq = .dispatch ∧ (∃ p1 lo hi, s.fetch = .ok (.progFlash p1 lo hi) ∧ verify [0x01, p1] lo hi = true) ∧
      writable s.currentAddress = true ∧ InRange s.currentAddress s.payloadBufferSize.toNat a

/-- 20_memory.md section 6 (under the environment model, decision D15): a read after a successful write of at most 256
bytes gives the written bytes. -/
def Obligations.FlashReadAfterWrite : Prop :=
  ∀ (m : Memory) (a : U32) (data : List Byte), m.wf → data.length ≤ 256 →
    (m.writeBytes a data).readBytes a data.length = data

/-- 10_state.md section 3 (R22, R23, R26 without their tagged clauses) and 43_commands.md section 3 (a bad CRC never
mutates state): `CURRENT_ADDRESS` is written only by SET_ADDRESS, `PAYLOAD_BUFFER_SIZE` only by SET_BUFFER, each with a
good CRC, and `EEPROM_REQ` is never cleared and set only by READ_EEPROM. -/
def Obligations.RegistersHaveOneWriter : Prop :=
  ∀ s t : State, step s = .next t →
    (t.currentAddress ≠ s.currentAddress →
      s.seq = .dispatch ∧ ∃ x p2 p3 lo hi, s.fetch = .ok (.setAddress x p2 p3 lo hi) ∧
        verify [0xFF, x, p2, p3] lo hi = true ∧ t.currentAddress = targetAddress p2 p3) ∧
    (t.payloadBufferSize ≠ s.payloadBufferSize →
      s.seq = .dispatch ∧ ∃ x p2 p3 lo hi, s.fetch = .ok (.setBuffer x p2 p3 lo hi) ∧
        verify [0xFE, x, p2, p3] lo hi = true ∧ t.payloadBufferSize = bufferSize p2 p3) ∧
    (t.eepromReq ≠ s.eepromReq → s.seq = .dispatch ∧ s.fetch = .ok .readEeprom ∧ t.eepromReq = true)

/-- 10_state.md sections 3 and 4 (R24, R27), 70_reset_and_hazards.md section 3: the payload buffer is written, and the
ACK after which payload mode ends is begun, only by a payload of exactly the announced size with a good CRC; payload
mode is left only when `Send` returns from that ACK (43_commands.md section 2; log entry 14 for the form), and it is
entered only by the dispatch of a SET_BUFFER with a good CRC (43_commands.md sections 3 and 4). -/
def Obligations.PayloadModeIsSticky : Prop :=
  ∀ s t : State, step s = .next t →
    (t.pbuf ≠ s.pbuf ∨ s.afterSend ≠ .leavePayloadMode ∧ t.afterSend = .leavePayloadMode →
      s.seq = .dispatch ∧ t.seq = .reply ∧ t.tx = .enterTx [0x30] ∧ t.afterSend = .leavePayloadMode ∧
        ∃ data lo hi, s.fetch = .ok (.rawPayload data lo hi) ∧ data.length = s.payloadBufferSize.toNat ∧
          verify data lo hi = true) ∧
    (s.payloadExpected = true → t.payloadExpected = false →
      s.seq = .reply ∧ s.afterSend = .leavePayloadMode ∧ t.seq = .jumpTest) ∧
    (s.payloadExpected = false → t.payloadExpected = true →
      s.seq = .dispatch ∧ t.seq = .jumpTest ∧ ∃ x p2 p3 lo hi, s.fetch = .ok (.setBuffer x p2 p3 lo hi) ∧
        verify [0xFE, x, p2, p3] lo hi = true)

/-- 44_responses.md, 41_transport.md section 4 (derived by the spec): the block begins to drive the pin only in REPLY,
and REPLY is entered only from the dispatch of a message; from a state that meets the invariant the pin is an output
after a step only if the block is in REPLY then, so it never stays one outside a reply. -/
def Obligations.TransmitsOnlyInReplyToAMessage : Prop :=
  ∀ s t : State, step s = .next t →
    (t.dir = .tx → s.dir = .tx ∨ s.seq = .reply) ∧ (t.seq = .reply → s.seq = .reply ∨ s.seq = .dispatch) ∧
      (s.Inv → t.dir = .tx → t.seq = .reply)

/-- 00_scope.md sections 4 and 5: time never runs back, the block cannot change what the peer does, and one step makes
at most one flash port call. -/
def Obligations.TimeAdvancesAndPeerIsInput : Prop :=
  ∀ s t : State, step s = .next t →
    s.now ≤ t.now ∧ t.peer = s.peer ∧ (t.flashCalls = s.flashCalls ∨ ∃ c, t.flashCalls = c :: s.flashCalls)

/-- 70_reset_and_hazards.md sections 1 and 2 (a reset in the middle of a session; the free bytes by I7; that time, line
and flash go on is the model's choice, log entry 21; the range wraps modulo 2^32 by log entry 19): a reset gives the
session-start registers and buffers and keeps every flash byte; one that interrupts a write does the same, but keeps
only the bytes outside the range being written. -/
def Obligations.DeviceResetDiscardsTheSession : Prop :=
  ∀ (s : State) (a : U32) (n : Nat),
    (s.deviceReset.regs = State.reset.regs ∧ s.deviceReset.rxbuf = State.reset.rxbuf ∧ s.deviceReset.rxCount = 0 ∧
      s.deviceReset.msgRcvd = false ∧ s.deviceReset.seq = .assemble ∧ s.deviceReset.dir = .rx ∧
      s.deviceReset.lineOut = true ∧ FlashKept s s.deviceReset) ∧
    ((s.deviceResetInWrite a n).regs = State.reset.regs ∧ (s.deviceResetInWrite a n).rxbuf = State.reset.rxbuf ∧
      (s.deviceResetInWrite a n).rxCount = 0 ∧ (s.deviceResetInWrite a n).msgRcvd = false ∧
      (s.deviceResetInWrite a n).seq = .assemble ∧ (s.deviceResetInWrite a n).dir = .rx ∧
      (s.deviceResetInWrite a n).lineOut = true ∧
      ∀ x, ¬ InRange a n x → (s.deviceResetInWrite a n).flash.read x = s.flash.read x)
end

