-- ==== Sys2Proof/Laws/Memory.lean ====
section
/-!
SUPPORT. The laws of the flash contents: what a write leaves to be read, and that every operation keeps the canonical
form.
-/

namespace Sys2Proof.Machine

@[simp] theorem Memory.read_nil (a : Nat) : Memory.read [] a = Config.flashInitial a := rfl

@[simp] theorem Memory.read_cons (k : Nat) (v : Byte) (m : Memory) (a : Nat) :
    Memory.read ((k, v) :: m) a = if k = a then v else Memory.read m a := rfl

/-- An address below every listed one reads as unlisted. -/
theorem Memory.read_of_lt (m : Memory) (a : Nat) (h : ∀ e ∈ m, a < e.1) : m.read a = Config.flashInitial a := by
  induction m with
  | nil => rfl
  | cons e m ih =>
    obtain ⟨k, v⟩ := e
    have hk : a < k := h (k, v) List.mem_cons_self
    rw [Memory.read_cons, if_neg (by omega), ih fun e he => h e (List.mem_cons_of_mem _ he)]

/-- The addresses a write leaves listed. -/
theorem Memory.mem_write {m : Memory} {a : Nat} {v : Byte} {e : Host.Cell} (h : e ∈ m.write a v) :
    (e = (a, v) ∧ v ≠ Config.flashInitial a) ∨ e ∈ m := by
  induction m with
  | nil =>
    simp only [Memory.write] at h
    split at h
    · simp at h
    · next hv => exact .inl ⟨by simpa using h, hv⟩
  | cons f m ih =>
    obtain ⟨k, w⟩ := f
    simp only [Memory.write] at h
    split at h
    · split at h
      · exact .inr h
      · next hv =>
        rcases List.mem_cons.1 h with h | h
        · exact .inl ⟨h, hv⟩
        · exact .inr h
    · split at h
      · split at h
        · exact .inr (List.mem_cons_of_mem _ h)
        · next hv =>
          rcases List.mem_cons.1 h with h | h
          · exact .inl ⟨h, hv⟩
          · exact .inr (List.mem_cons_of_mem _ h)
      · rcases List.mem_cons.1 h with h | h
        · exact .inr (h ▸ List.mem_cons_self)
        · exact (ih h).imp_right (List.mem_cons_of_mem _)

/-- A write keeps the canonical form. -/
theorem Memory.write_wf {m : Memory} (h : m.wf) {a : Nat} (ha : a < 2 ^ 32) (v : Byte) : (m.write a v).wf := by
  refine ⟨?_, fun e he => ?_⟩
  · induction m with
    | nil => simp only [Memory.write]; split <;> simp
    | cons f m ih =>
      obtain ⟨k, w⟩ := f
      obtain ⟨hk, hm⟩ := List.pairwise_cons.1 h.1
      have ht : Memory.wf m := ⟨hm, fun e he => h.2 e (List.mem_cons_of_mem _ he)⟩
      have above : ∀ {b : Nat}, b ≤ k → ∀ e ∈ m, b < e.1 := fun hb e he => lt_of_le_of_lt hb (hk e he)
      simp only [Memory.write]
      split
      · next hlt =>
        split
        · exact h.1
        · refine List.pairwise_cons.2 ⟨fun e he => ?_, h.1⟩
          rcases List.mem_cons.1 he with rfl | he
          · exact hlt
          · exact above hlt.le e he
      · split
        · next heq =>
          split
          · exact hm
          · exact List.pairwise_cons.2 ⟨fun e he => above heq.le e he, hm⟩
        · refine List.pairwise_cons.2 ⟨fun e he => ?_, ih ht⟩
          rcases Memory.mem_write he with ⟨rfl, -⟩ | he
          · simp only; omega
          · exact hk e he
  · rcases Memory.mem_write he with ⟨rfl, hv⟩ | he
    · exact ⟨ha, hv⟩
    · exact h.2 e he

/-- After a write to a canonical memory the address reads the byte written. -/
theorem Memory.read_write_same {m : Memory} (h : m.wf) (a : Nat) (v : Byte) : (m.write a v).read a = v := by
  induction m with
  | nil => simp only [Memory.write]; split <;> simp_all
  | cons f m ih =>
    obtain ⟨k, w⟩ := f
    obtain ⟨hk, hm⟩ := List.pairwise_cons.1 h.1
    simp only [Memory.write]
    split
    · next hlt =>
      split
      · next hv =>
        rw [Memory.read_of_lt _ _ fun e he => ?_, hv]
        rcases List.mem_cons.1 he with rfl | he
        · exact hlt
        · exact hlt.trans (hk e he)
      · simp
    · split
      · next heq =>
        split
        · next hv => rw [Memory.read_of_lt _ _ fun e he => heq ▸ hk e he, hv]
        · simp
      · next hne =>
        rw [Memory.read_cons, if_neg (Ne.symm hne)]
        exact ih ⟨hm, fun e he => h.2 e (List.mem_cons_of_mem _ he)⟩

/-- After a write every other address reads as before. -/
theorem Memory.read_write_other {m : Memory} {a b : Nat} (hab : b ≠ a) (v : Byte) :
    (m.write a v).read b = m.read b := by
  induction m with
  | nil => simp only [Memory.write]; split <;> simp [hab.symm]
  | cons f m ih =>
    obtain ⟨k, w⟩ := f
    simp only [Memory.write]
    split
    · split
      · rfl
      · simp [hab.symm]
    · split
      · next heq =>
        subst heq
        split <;> simp [hab.symm]
      · simp only [Memory.read_cons, ih]

/-- The address of a byte of a flash access lies in the 32-bit space. -/
theorem flashAddress_lt (a : U32) (i : Nat) : flashAddress a i < 2 ^ 32 := (a + BitVec.ofNat 32 i).isLt

/-- After a write of a byte sequence every address outside its range reads as before. -/
theorem Memory.writeFrom_read_other (a : U32) (x : Nat) (data : List Byte) : ∀ {i : Nat} {m : Memory},
    (∀ j, j < data.length → x ≠ flashAddress a (i + j)) → (Memory.writeFrom a i data m).read x = m.read x := by
  induction data with
  | nil => exact fun _ => rfl
  | cons b bs ih =>
    intro i m h
    rw [Memory.writeFrom, ih fun j hj => ?_]
    · exact Memory.read_write_other (h 0 (Nat.zero_lt_succ _)) b
    · have := h (j + 1) (Nat.succ_lt_succ hj)
      rwa [Nat.add_right_comm, Nat.add_assoc]

/-- A write of a byte sequence keeps the canonical form, from any offset on. -/
theorem Memory.writeFrom_wf (a : U32) (data : List Byte) : ∀ {i : Nat} {m : Memory}, m.wf →
    (Memory.writeFrom a i data m).wf := by
  induction data with
  | nil => exact fun h => h
  | cons b bs ih => exact fun h => ih (Memory.write_wf h (flashAddress_lt a _) b)

/-- After a write of a byte sequence every address outside its range reads as before. -/
theorem Memory.writeBytes_read_other {m : Memory} {a : U32} {x : Nat} {data : List Byte}
    (h : ¬ InRange a data.length x) : (m.writeBytes a data).read x = m.read x :=
  Memory.writeFrom_read_other a x data fun j hj hx => h ⟨j, hj, by rwa [Nat.zero_add] at hx⟩

/-- A write of a byte sequence keeps the canonical form. -/
theorem Memory.writeBytes_wf {m : Memory} (h : m.wf) (a : U32) (data : List Byte) : (m.writeBytes a data).wf :=
  Memory.writeFrom_wf a data h

/-- The flash port `MemWrite` keeps the canonical form. -/
theorem State.memWrite_wf {s : State} (h : s.flash.wf) (a : U32) (data : List Byte) :
    (s.memWrite a data).2.flash.wf := Memory.writeBytes_wf h a _

/-- The flash port `MemRead` keeps the canonical form. -/
theorem State.memRead_wf {s : State} (h : s.flash.wf) (a : U32) (n : Nat) : (s.memRead a n).2.flash.wf := h

/-- A device reset keeps the canonical form. -/
theorem State.deviceReset_wf {s : State} (h : s.flash.wf) : s.deviceReset.flash.wf := h

/-- A reset that interrupts a write keeps the canonical form. -/
theorem State.deviceResetInWrite_wf {s : State} (h : s.flash.wf) (a : U32) (n : Nat) :
    (s.deviceResetInWrite a n).flash.wf := Memory.writeBytes_wf h a _

/-- The flash at session start is in canonical form. -/
theorem State.reset_wf : State.reset.flash.wf := by simp [State.reset, Memory.wf]

end Sys2Proof.Machine
end

