-- ==== Sys2Proof/Laws/State.lean ====
section
/-!
SUPPORT. One lemma per field per named update of State, each true by rfl, so that no proof unfolds a record update; and
what each update leaves of the protocol registers and the line.
-/

namespace Sys2Proof.Machine

/-! ### addFail -/

@[simp] theorem State.addFail_currentAddress (k : U16) (s : State) : (s.addFail k).currentAddress = s.currentAddress := rfl
@[simp] theorem State.addFail_payloadBufferSize (k : U16) (s : State) : (s.addFail k).payloadBufferSize = s.payloadBufferSize := rfl
@[simp] theorem State.addFail_payloadExpected (k : U16) (s : State) : (s.addFail k).payloadExpected = s.payloadExpected := rfl
@[simp] theorem State.addFail_failScore (k : U16) (s : State) : (s.addFail k).failScore = s.failScore + k := rfl
@[simp] theorem State.addFail_eepromReq (k : U16) (s : State) : (s.addFail k).eepromReq = s.eepromReq := rfl
@[simp] theorem State.addFail_pbuf (k : U16) (s : State) : (s.addFail k).pbuf = s.pbuf := rfl
@[simp] theorem State.addFail_rxbuf (k : U16) (s : State) : (s.addFail k).rxbuf = s.rxbuf := rfl
@[simp] theorem State.addFail_rxCount (k : U16) (s : State) : (s.addFail k).rxCount = s.rxCount := rfl
@[simp] theorem State.addFail_msgRcvd (k : U16) (s : State) : (s.addFail k).msgRcvd = s.msgRcvd := rfl
@[simp] theorem State.addFail_dir (k : U16) (s : State) : (s.addFail k).dir = s.dir := rfl
@[simp] theorem State.addFail_lineOut (k : U16) (s : State) : (s.addFail k).lineOut = s.lineOut := rfl
@[simp] theorem State.addFail_seq (k : U16) (s : State) : (s.addFail k).seq = s.seq := rfl
@[simp] theorem State.addFail_rx (k : U16) (s : State) : (s.addFail k).rx = s.rx := rfl
@[simp] theorem State.addFail_collect (k : U16) (s : State) : (s.addFail k).collect = s.collect := rfl
@[simp] theorem State.addFail_tx (k : U16) (s : State) : (s.addFail k).tx = s.tx := rfl
@[simp] theorem State.addFail_afterSend (k : U16) (s : State) : (s.addFail k).afterSend = s.afterSend := rfl
@[simp] theorem State.addFail_now (k : U16) (s : State) : (s.addFail k).now = s.now := rfl
@[simp] theorem State.addFail_timerOrigin (k : U16) (s : State) : (s.addFail k).timerOrigin = s.timerOrigin := rfl
@[simp] theorem State.addFail_peer (k : U16) (s : State) : (s.addFail k).peer = s.peer := rfl
@[simp] theorem State.addFail_flash (k : U16) (s : State) : (s.addFail k).flash = s.flash := rfl
@[simp] theorem State.addFail_flashCalls (k : U16) (s : State) : (s.addFail k).flashCalls = s.flashCalls := rfl
@[simp] theorem State.addFail_transferred (k : U16) (s : State) : (s.addFail k).transferred = s.transferred := rfl
@[simp] theorem State.addFail_draws (k : U16) (s : State) : (s.addFail k).draws = s.draws := rfl
@[simp] theorem State.addFail_regs (k : U16) (s : State) : (s.addFail k).regs = { s.regs with failScore := s.failScore + k } := rfl

/-! ### setFail -/

@[simp] theorem State.setFail_currentAddress (k : U16) (s : State) : (s.setFail k).currentAddress = s.currentAddress := rfl
@[simp] theorem State.setFail_payloadBufferSize (k : U16) (s : State) : (s.setFail k).payloadBufferSize = s.payloadBufferSize := rfl
@[simp] theorem State.setFail_payloadExpected (k : U16) (s : State) : (s.setFail k).payloadExpected = s.payloadExpected := rfl
@[simp] theorem State.setFail_failScore (k : U16) (s : State) : (s.setFail k).failScore = k := rfl
@[simp] theorem State.setFail_eepromReq (k : U16) (s : State) : (s.setFail k).eepromReq = s.eepromReq := rfl
@[simp] theorem State.setFail_pbuf (k : U16) (s : State) : (s.setFail k).pbuf = s.pbuf := rfl
@[simp] theorem State.setFail_rxbuf (k : U16) (s : State) : (s.setFail k).rxbuf = s.rxbuf := rfl
@[simp] theorem State.setFail_rxCount (k : U16) (s : State) : (s.setFail k).rxCount = s.rxCount := rfl
@[simp] theorem State.setFail_msgRcvd (k : U16) (s : State) : (s.setFail k).msgRcvd = s.msgRcvd := rfl
@[simp] theorem State.setFail_dir (k : U16) (s : State) : (s.setFail k).dir = s.dir := rfl
@[simp] theorem State.setFail_lineOut (k : U16) (s : State) : (s.setFail k).lineOut = s.lineOut := rfl
@[simp] theorem State.setFail_seq (k : U16) (s : State) : (s.setFail k).seq = s.seq := rfl
@[simp] theorem State.setFail_rx (k : U16) (s : State) : (s.setFail k).rx = s.rx := rfl
@[simp] theorem State.setFail_collect (k : U16) (s : State) : (s.setFail k).collect = s.collect := rfl
@[simp] theorem State.setFail_tx (k : U16) (s : State) : (s.setFail k).tx = s.tx := rfl
@[simp] theorem State.setFail_afterSend (k : U16) (s : State) : (s.setFail k).afterSend = s.afterSend := rfl
@[simp] theorem State.setFail_now (k : U16) (s : State) : (s.setFail k).now = s.now := rfl
@[simp] theorem State.setFail_timerOrigin (k : U16) (s : State) : (s.setFail k).timerOrigin = s.timerOrigin := rfl
@[simp] theorem State.setFail_peer (k : U16) (s : State) : (s.setFail k).peer = s.peer := rfl
@[simp] theorem State.setFail_flash (k : U16) (s : State) : (s.setFail k).flash = s.flash := rfl
@[simp] theorem State.setFail_flashCalls (k : U16) (s : State) : (s.setFail k).flashCalls = s.flashCalls := rfl
@[simp] theorem State.setFail_transferred (k : U16) (s : State) : (s.setFail k).transferred = s.transferred := rfl
@[simp] theorem State.setFail_draws (k : U16) (s : State) : (s.setFail k).draws = s.draws := rfl
@[simp] theorem State.setFail_regs (k : U16) (s : State) : (s.setFail k).regs = { s.regs with failScore := k } := rfl

/-! ### setPayloadExpected -/

@[simp] theorem State.setPayloadExpected_currentAddress (v : Bool) (s : State) : (s.setPayloadExpected v).currentAddress = s.currentAddress := rfl
@[simp] theorem State.setPayloadExpected_payloadBufferSize (v : Bool) (s : State) : (s.setPayloadExpected v).payloadBufferSize = s.payloadBufferSize := rfl
@[simp] theorem State.setPayloadExpected_payloadExpected (v : Bool) (s : State) : (s.setPayloadExpected v).payloadExpected = v := rfl
@[simp] theorem State.setPayloadExpected_failScore (v : Bool) (s : State) : (s.setPayloadExpected v).failScore = s.failScore := rfl
@[simp] theorem State.setPayloadExpected_eepromReq (v : Bool) (s : State) : (s.setPayloadExpected v).eepromReq = s.eepromReq := rfl
@[simp] theorem State.setPayloadExpected_pbuf (v : Bool) (s : State) : (s.setPayloadExpected v).pbuf = s.pbuf := rfl
@[simp] theorem State.setPayloadExpected_rxbuf (v : Bool) (s : State) : (s.setPayloadExpected v).rxbuf = s.rxbuf := rfl
@[simp] theorem State.setPayloadExpected_rxCount (v : Bool) (s : State) : (s.setPayloadExpected v).rxCount = s.rxCount := rfl
@[simp] theorem State.setPayloadExpected_msgRcvd (v : Bool) (s : State) : (s.setPayloadExpected v).msgRcvd = s.msgRcvd := rfl
@[simp] theorem State.setPayloadExpected_dir (v : Bool) (s : State) : (s.setPayloadExpected v).dir = s.dir := rfl
@[simp] theorem State.setPayloadExpected_lineOut (v : Bool) (s : State) : (s.setPayloadExpected v).lineOut = s.lineOut := rfl
@[simp] theorem State.setPayloadExpected_seq (v : Bool) (s : State) : (s.setPayloadExpected v).seq = s.seq := rfl
@[simp] theorem State.setPayloadExpected_rx (v : Bool) (s : State) : (s.setPayloadExpected v).rx = s.rx := rfl
@[simp] theorem State.setPayloadExpected_collect (v : Bool) (s : State) : (s.setPayloadExpected v).collect = s.collect := rfl
@[simp] theorem State.setPayloadExpected_tx (v : Bool) (s : State) : (s.setPayloadExpected v).tx = s.tx := rfl
@[simp] theorem State.setPayloadExpected_afterSend (v : Bool) (s : State) : (s.setPayloadExpected v).afterSend = s.afterSend := rfl
@[simp] theorem State.setPayloadExpected_now (v : Bool) (s : State) : (s.setPayloadExpected v).now = s.now := rfl
@[simp] theorem State.setPayloadExpected_timerOrigin (v : Bool) (s : State) : (s.setPayloadExpected v).timerOrigin = s.timerOrigin := rfl
@[simp] theorem State.setPayloadExpected_peer (v : Bool) (s : State) : (s.setPayloadExpected v).peer = s.peer := rfl
@[simp] theorem State.setPayloadExpected_flash (v : Bool) (s : State) : (s.setPayloadExpected v).flash = s.flash := rfl
@[simp] theorem State.setPayloadExpected_flashCalls (v : Bool) (s : State) : (s.setPayloadExpected v).flashCalls = s.flashCalls := rfl
@[simp] theorem State.setPayloadExpected_transferred (v : Bool) (s : State) : (s.setPayloadExpected v).transferred = s.transferred := rfl
@[simp] theorem State.setPayloadExpected_draws (v : Bool) (s : State) : (s.setPayloadExpected v).draws = s.draws := rfl
@[simp] theorem State.setPayloadExpected_regs (v : Bool) (s : State) : (s.setPayloadExpected v).regs = { s.regs with payloadExpected := v } := rfl

/-! ### setEepromReq -/

@[simp] theorem State.setEepromReq_currentAddress (s : State) : (s.setEepromReq).currentAddress = s.currentAddress := rfl
@[simp] theorem State.setEepromReq_payloadBufferSize (s : State) : (s.setEepromReq).payloadBufferSize = s.payloadBufferSize := rfl
@[simp] theorem State.setEepromReq_payloadExpected (s : State) : (s.setEepromReq).payloadExpected = s.payloadExpected := rfl
@[simp] theorem State.setEepromReq_failScore (s : State) : (s.setEepromReq).failScore = s.failScore := rfl
@[simp] theorem State.setEepromReq_eepromReq (s : State) : (s.setEepromReq).eepromReq = true := rfl
@[simp] theorem State.setEepromReq_pbuf (s : State) : (s.setEepromReq).pbuf = s.pbuf := rfl
@[simp] theorem State.setEepromReq_rxbuf (s : State) : (s.setEepromReq).rxbuf = s.rxbuf := rfl
@[simp] theorem State.setEepromReq_rxCount (s : State) : (s.setEepromReq).rxCount = s.rxCount := rfl
@[simp] theorem State.setEepromReq_msgRcvd (s : State) : (s.setEepromReq).msgRcvd = s.msgRcvd := rfl
@[simp] theorem State.setEepromReq_dir (s : State) : (s.setEepromReq).dir = s.dir := rfl
@[simp] theorem State.setEepromReq_lineOut (s : State) : (s.setEepromReq).lineOut = s.lineOut := rfl
@[simp] theorem State.setEepromReq_seq (s : State) : (s.setEepromReq).seq = s.seq := rfl
@[simp] theorem State.setEepromReq_rx (s : State) : (s.setEepromReq).rx = s.rx := rfl
@[simp] theorem State.setEepromReq_collect (s : State) : (s.setEepromReq).collect = s.collect := rfl
@[simp] theorem State.setEepromReq_tx (s : State) : (s.setEepromReq).tx = s.tx := rfl
@[simp] theorem State.setEepromReq_afterSend (s : State) : (s.setEepromReq).afterSend = s.afterSend := rfl
@[simp] theorem State.setEepromReq_now (s : State) : (s.setEepromReq).now = s.now := rfl
@[simp] theorem State.setEepromReq_timerOrigin (s : State) : (s.setEepromReq).timerOrigin = s.timerOrigin := rfl
@[simp] theorem State.setEepromReq_peer (s : State) : (s.setEepromReq).peer = s.peer := rfl
@[simp] theorem State.setEepromReq_flash (s : State) : (s.setEepromReq).flash = s.flash := rfl
@[simp] theorem State.setEepromReq_flashCalls (s : State) : (s.setEepromReq).flashCalls = s.flashCalls := rfl
@[simp] theorem State.setEepromReq_transferred (s : State) : (s.setEepromReq).transferred = s.transferred := rfl
@[simp] theorem State.setEepromReq_draws (s : State) : (s.setEepromReq).draws = s.draws := rfl
@[simp] theorem State.setEepromReq_regs (s : State) : (s.setEepromReq).regs = { s.regs with eepromReq := true } := rfl

/-! ### wait -/

@[simp] theorem State.wait_currentAddress (d : Nat) (s : State) : (s.wait d).currentAddress = s.currentAddress := rfl
@[simp] theorem State.wait_payloadBufferSize (d : Nat) (s : State) : (s.wait d).payloadBufferSize = s.payloadBufferSize := rfl
@[simp] theorem State.wait_payloadExpected (d : Nat) (s : State) : (s.wait d).payloadExpected = s.payloadExpected := rfl
@[simp] theorem State.wait_failScore (d : Nat) (s : State) : (s.wait d).failScore = s.failScore := rfl
@[simp] theorem State.wait_eepromReq (d : Nat) (s : State) : (s.wait d).eepromReq = s.eepromReq := rfl
@[simp] theorem State.wait_pbuf (d : Nat) (s : State) : (s.wait d).pbuf = s.pbuf := rfl
@[simp] theorem State.wait_rxbuf (d : Nat) (s : State) : (s.wait d).rxbuf = s.rxbuf := rfl
@[simp] theorem State.wait_rxCount (d : Nat) (s : State) : (s.wait d).rxCount = s.rxCount := rfl
@[simp] theorem State.wait_msgRcvd (d : Nat) (s : State) : (s.wait d).msgRcvd = s.msgRcvd := rfl
@[simp] theorem State.wait_dir (d : Nat) (s : State) : (s.wait d).dir = s.dir := rfl
@[simp] theorem State.wait_lineOut (d : Nat) (s : State) : (s.wait d).lineOut = s.lineOut := rfl
@[simp] theorem State.wait_seq (d : Nat) (s : State) : (s.wait d).seq = s.seq := rfl
@[simp] theorem State.wait_rx (d : Nat) (s : State) : (s.wait d).rx = s.rx := rfl
@[simp] theorem State.wait_collect (d : Nat) (s : State) : (s.wait d).collect = s.collect := rfl
@[simp] theorem State.wait_tx (d : Nat) (s : State) : (s.wait d).tx = s.tx := rfl
@[simp] theorem State.wait_afterSend (d : Nat) (s : State) : (s.wait d).afterSend = s.afterSend := rfl
@[simp] theorem State.wait_now (d : Nat) (s : State) : (s.wait d).now = s.now + d := rfl
@[simp] theorem State.wait_timerOrigin (d : Nat) (s : State) : (s.wait d).timerOrigin = s.timerOrigin := rfl
@[simp] theorem State.wait_peer (d : Nat) (s : State) : (s.wait d).peer = s.peer := rfl
@[simp] theorem State.wait_flash (d : Nat) (s : State) : (s.wait d).flash = s.flash := rfl
@[simp] theorem State.wait_flashCalls (d : Nat) (s : State) : (s.wait d).flashCalls = s.flashCalls := rfl
@[simp] theorem State.wait_transferred (d : Nat) (s : State) : (s.wait d).transferred = s.transferred := rfl
@[simp] theorem State.wait_draws (d : Nat) (s : State) : (s.wait d).draws = s.draws := rfl
@[simp] theorem State.wait_regs (d : Nat) (s : State) : (s.wait d).regs = s.regs := rfl

/-! ### drawn -/

@[simp] theorem State.drawn_currentAddress (s : State) : (s.drawn).currentAddress = s.currentAddress := rfl
@[simp] theorem State.drawn_payloadBufferSize (s : State) : (s.drawn).payloadBufferSize = s.payloadBufferSize := rfl
@[simp] theorem State.drawn_payloadExpected (s : State) : (s.drawn).payloadExpected = s.payloadExpected := rfl
@[simp] theorem State.drawn_failScore (s : State) : (s.drawn).failScore = s.failScore := rfl
@[simp] theorem State.drawn_eepromReq (s : State) : (s.drawn).eepromReq = s.eepromReq := rfl
@[simp] theorem State.drawn_pbuf (s : State) : (s.drawn).pbuf = s.pbuf := rfl
@[simp] theorem State.drawn_rxbuf (s : State) : (s.drawn).rxbuf = s.rxbuf := rfl
@[simp] theorem State.drawn_rxCount (s : State) : (s.drawn).rxCount = s.rxCount := rfl
@[simp] theorem State.drawn_msgRcvd (s : State) : (s.drawn).msgRcvd = s.msgRcvd := rfl
@[simp] theorem State.drawn_dir (s : State) : (s.drawn).dir = s.dir := rfl
@[simp] theorem State.drawn_lineOut (s : State) : (s.drawn).lineOut = s.lineOut := rfl
@[simp] theorem State.drawn_seq (s : State) : (s.drawn).seq = s.seq := rfl
@[simp] theorem State.drawn_rx (s : State) : (s.drawn).rx = s.rx := rfl
@[simp] theorem State.drawn_collect (s : State) : (s.drawn).collect = s.collect := rfl
@[simp] theorem State.drawn_tx (s : State) : (s.drawn).tx = s.tx := rfl
@[simp] theorem State.drawn_afterSend (s : State) : (s.drawn).afterSend = s.afterSend := rfl
@[simp] theorem State.drawn_now (s : State) : (s.drawn).now = s.now := rfl
@[simp] theorem State.drawn_timerOrigin (s : State) : (s.drawn).timerOrigin = s.timerOrigin := rfl
@[simp] theorem State.drawn_peer (s : State) : (s.drawn).peer = s.peer := rfl
@[simp] theorem State.drawn_flash (s : State) : (s.drawn).flash = s.flash := rfl
@[simp] theorem State.drawn_flashCalls (s : State) : (s.drawn).flashCalls = s.flashCalls := rfl
@[simp] theorem State.drawn_transferred (s : State) : (s.drawn).transferred = s.transferred := rfl
@[simp] theorem State.drawn_draws (s : State) : (s.drawn).draws = s.draws + 1 := rfl
@[simp] theorem State.drawn_regs (s : State) : (s.drawn).regs = s.regs := rfl

/-! ### elapse -/

@[simp] theorem State.elapse_currentAddress (s : State) : (s.elapse).currentAddress = s.currentAddress := rfl
@[simp] theorem State.elapse_payloadBufferSize (s : State) : (s.elapse).payloadBufferSize = s.payloadBufferSize := rfl
@[simp] theorem State.elapse_payloadExpected (s : State) : (s.elapse).payloadExpected = s.payloadExpected := rfl
@[simp] theorem State.elapse_failScore (s : State) : (s.elapse).failScore = s.failScore := rfl
@[simp] theorem State.elapse_eepromReq (s : State) : (s.elapse).eepromReq = s.eepromReq := rfl
@[simp] theorem State.elapse_pbuf (s : State) : (s.elapse).pbuf = s.pbuf := rfl
@[simp] theorem State.elapse_rxbuf (s : State) : (s.elapse).rxbuf = s.rxbuf := rfl
@[simp] theorem State.elapse_rxCount (s : State) : (s.elapse).rxCount = s.rxCount := rfl
@[simp] theorem State.elapse_msgRcvd (s : State) : (s.elapse).msgRcvd = s.msgRcvd := rfl
@[simp] theorem State.elapse_dir (s : State) : (s.elapse).dir = s.dir := rfl
@[simp] theorem State.elapse_lineOut (s : State) : (s.elapse).lineOut = s.lineOut := rfl
@[simp] theorem State.elapse_seq (s : State) : (s.elapse).seq = s.seq := rfl
@[simp] theorem State.elapse_rx (s : State) : (s.elapse).rx = s.rx := rfl
@[simp] theorem State.elapse_collect (s : State) : (s.elapse).collect = s.collect := rfl
@[simp] theorem State.elapse_tx (s : State) : (s.elapse).tx = s.tx := rfl
@[simp] theorem State.elapse_afterSend (s : State) : (s.elapse).afterSend = s.afterSend := rfl
@[simp] theorem State.elapse_now (s : State) : (s.elapse).now = s.now + Config.delay s.draws := rfl
@[simp] theorem State.elapse_timerOrigin (s : State) : (s.elapse).timerOrigin = s.timerOrigin := rfl
@[simp] theorem State.elapse_peer (s : State) : (s.elapse).peer = s.peer := rfl
@[simp] theorem State.elapse_flash (s : State) : (s.elapse).flash = s.flash := rfl
@[simp] theorem State.elapse_flashCalls (s : State) : (s.elapse).flashCalls = s.flashCalls := rfl
@[simp] theorem State.elapse_transferred (s : State) : (s.elapse).transferred = s.transferred := rfl
@[simp] theorem State.elapse_draws (s : State) : (s.elapse).draws = s.draws + 1 := rfl
@[simp] theorem State.elapse_regs (s : State) : (s.elapse).regs = s.regs := rfl

/-! ### timerReset -/

@[simp] theorem State.timerReset_currentAddress (s : State) : (s.timerReset).currentAddress = s.currentAddress := rfl
@[simp] theorem State.timerReset_payloadBufferSize (s : State) : (s.timerReset).payloadBufferSize = s.payloadBufferSize := rfl
@[simp] theorem State.timerReset_payloadExpected (s : State) : (s.timerReset).payloadExpected = s.payloadExpected := rfl
@[simp] theorem State.timerReset_failScore (s : State) : (s.timerReset).failScore = s.failScore := rfl
@[simp] theorem State.timerReset_eepromReq (s : State) : (s.timerReset).eepromReq = s.eepromReq := rfl
@[simp] theorem State.timerReset_pbuf (s : State) : (s.timerReset).pbuf = s.pbuf := rfl
@[simp] theorem State.timerReset_rxbuf (s : State) : (s.timerReset).rxbuf = s.rxbuf := rfl
@[simp] theorem State.timerReset_rxCount (s : State) : (s.timerReset).rxCount = s.rxCount := rfl
@[simp] theorem State.timerReset_msgRcvd (s : State) : (s.timerReset).msgRcvd = s.msgRcvd := rfl
@[simp] theorem State.timerReset_dir (s : State) : (s.timerReset).dir = s.dir := rfl
@[simp] theorem State.timerReset_lineOut (s : State) : (s.timerReset).lineOut = s.lineOut := rfl
@[simp] theorem State.timerReset_seq (s : State) : (s.timerReset).seq = s.seq := rfl
@[simp] theorem State.timerReset_rx (s : State) : (s.timerReset).rx = s.rx := rfl
@[simp] theorem State.timerReset_collect (s : State) : (s.timerReset).collect = s.collect := rfl
@[simp] theorem State.timerReset_tx (s : State) : (s.timerReset).tx = s.tx := rfl
@[simp] theorem State.timerReset_afterSend (s : State) : (s.timerReset).afterSend = s.afterSend := rfl
@[simp] theorem State.timerReset_now (s : State) : (s.timerReset).now = s.now := rfl
@[simp] theorem State.timerReset_timerOrigin (s : State) : (s.timerReset).timerOrigin = s.now := rfl
@[simp] theorem State.timerReset_peer (s : State) : (s.timerReset).peer = s.peer := rfl
@[simp] theorem State.timerReset_flash (s : State) : (s.timerReset).flash = s.flash := rfl
@[simp] theorem State.timerReset_flashCalls (s : State) : (s.timerReset).flashCalls = s.flashCalls := rfl
@[simp] theorem State.timerReset_transferred (s : State) : (s.timerReset).transferred = s.transferred := rfl
@[simp] theorem State.timerReset_draws (s : State) : (s.timerReset).draws = s.draws := rfl
@[simp] theorem State.timerReset_regs (s : State) : (s.timerReset).regs = s.regs := rfl

/-! ### drive -/

@[simp] theorem State.drive_currentAddress (v : Level) (s : State) : (s.drive v).currentAddress = s.currentAddress := rfl
@[simp] theorem State.drive_payloadBufferSize (v : Level) (s : State) : (s.drive v).payloadBufferSize = s.payloadBufferSize := rfl
@[simp] theorem State.drive_payloadExpected (v : Level) (s : State) : (s.drive v).payloadExpected = s.payloadExpected := rfl
@[simp] theorem State.drive_failScore (v : Level) (s : State) : (s.drive v).failScore = s.failScore := rfl
@[simp] theorem State.drive_eepromReq (v : Level) (s : State) : (s.drive v).eepromReq = s.eepromReq := rfl
@[simp] theorem State.drive_pbuf (v : Level) (s : State) : (s.drive v).pbuf = s.pbuf := rfl
@[simp] theorem State.drive_rxbuf (v : Level) (s : State) : (s.drive v).rxbuf = s.rxbuf := rfl
@[simp] theorem State.drive_rxCount (v : Level) (s : State) : (s.drive v).rxCount = s.rxCount := rfl
@[simp] theorem State.drive_msgRcvd (v : Level) (s : State) : (s.drive v).msgRcvd = s.msgRcvd := rfl
@[simp] theorem State.drive_dir (v : Level) (s : State) : (s.drive v).dir = s.dir := rfl
@[simp] theorem State.drive_lineOut (v : Level) (s : State) : (s.drive v).lineOut = v := rfl
@[simp] theorem State.drive_seq (v : Level) (s : State) : (s.drive v).seq = s.seq := rfl
@[simp] theorem State.drive_rx (v : Level) (s : State) : (s.drive v).rx = s.rx := rfl
@[simp] theorem State.drive_collect (v : Level) (s : State) : (s.drive v).collect = s.collect := rfl
@[simp] theorem State.drive_tx (v : Level) (s : State) : (s.drive v).tx = s.tx := rfl
@[simp] theorem State.drive_afterSend (v : Level) (s : State) : (s.drive v).afterSend = s.afterSend := rfl
@[simp] theorem State.drive_now (v : Level) (s : State) : (s.drive v).now = s.now := rfl
@[simp] theorem State.drive_timerOrigin (v : Level) (s : State) : (s.drive v).timerOrigin = s.timerOrigin := rfl
@[simp] theorem State.drive_peer (v : Level) (s : State) : (s.drive v).peer = s.peer := rfl
@[simp] theorem State.drive_flash (v : Level) (s : State) : (s.drive v).flash = s.flash := rfl
@[simp] theorem State.drive_flashCalls (v : Level) (s : State) : (s.drive v).flashCalls = s.flashCalls := rfl
@[simp] theorem State.drive_transferred (v : Level) (s : State) : (s.drive v).transferred = s.transferred := rfl
@[simp] theorem State.drive_draws (v : Level) (s : State) : (s.drive v).draws = s.draws := rfl
@[simp] theorem State.drive_regs (v : Level) (s : State) : (s.drive v).regs = s.regs := rfl

/-! ### enterRx -/

@[simp] theorem State.enterRx_currentAddress (s : State) : (s.enterRx).currentAddress = s.currentAddress := rfl
@[simp] theorem State.enterRx_payloadBufferSize (s : State) : (s.enterRx).payloadBufferSize = s.payloadBufferSize := rfl
@[simp] theorem State.enterRx_payloadExpected (s : State) : (s.enterRx).payloadExpected = s.payloadExpected := rfl
@[simp] theorem State.enterRx_failScore (s : State) : (s.enterRx).failScore = s.failScore := rfl
@[simp] theorem State.enterRx_eepromReq (s : State) : (s.enterRx).eepromReq = s.eepromReq := rfl
@[simp] theorem State.enterRx_pbuf (s : State) : (s.enterRx).pbuf = s.pbuf := rfl
@[simp] theorem State.enterRx_rxbuf (s : State) : (s.enterRx).rxbuf = s.rxbuf := rfl
@[simp] theorem State.enterRx_rxCount (s : State) : (s.enterRx).rxCount = s.rxCount := rfl
@[simp] theorem State.enterRx_msgRcvd (s : State) : (s.enterRx).msgRcvd = s.msgRcvd := rfl
@[simp] theorem State.enterRx_dir (s : State) : (s.enterRx).dir = .rx := rfl
@[simp] theorem State.enterRx_lineOut (s : State) : (s.enterRx).lineOut = s.lineOut := rfl
@[simp] theorem State.enterRx_seq (s : State) : (s.enterRx).seq = s.seq := rfl
@[simp] theorem State.enterRx_rx (s : State) : (s.enterRx).rx = s.rx := rfl
@[simp] theorem State.enterRx_collect (s : State) : (s.enterRx).collect = s.collect := rfl
@[simp] theorem State.enterRx_tx (s : State) : (s.enterRx).tx = s.tx := rfl
@[simp] theorem State.enterRx_afterSend (s : State) : (s.enterRx).afterSend = s.afterSend := rfl
@[simp] theorem State.enterRx_now (s : State) : (s.enterRx).now = s.now := rfl
@[simp] theorem State.enterRx_timerOrigin (s : State) : (s.enterRx).timerOrigin = s.timerOrigin := rfl
@[simp] theorem State.enterRx_peer (s : State) : (s.enterRx).peer = s.peer := rfl
@[simp] theorem State.enterRx_flash (s : State) : (s.enterRx).flash = s.flash := rfl
@[simp] theorem State.enterRx_flashCalls (s : State) : (s.enterRx).flashCalls = s.flashCalls := rfl
@[simp] theorem State.enterRx_transferred (s : State) : (s.enterRx).transferred = s.transferred := rfl
@[simp] theorem State.enterRx_draws (s : State) : (s.enterRx).draws = s.draws := rfl
@[simp] theorem State.enterRx_regs (s : State) : (s.enterRx).regs = s.regs := rfl

/-! ### enterTx -/

@[simp] theorem State.enterTx_currentAddress (s : State) : (s.enterTx).currentAddress = s.currentAddress := rfl
@[simp] theorem State.enterTx_payloadBufferSize (s : State) : (s.enterTx).payloadBufferSize = s.payloadBufferSize := rfl
@[simp] theorem State.enterTx_payloadExpected (s : State) : (s.enterTx).payloadExpected = s.payloadExpected := rfl
@[simp] theorem State.enterTx_failScore (s : State) : (s.enterTx).failScore = s.failScore := rfl
@[simp] theorem State.enterTx_eepromReq (s : State) : (s.enterTx).eepromReq = s.eepromReq := rfl
@[simp] theorem State.enterTx_pbuf (s : State) : (s.enterTx).pbuf = s.pbuf := rfl
@[simp] theorem State.enterTx_rxbuf (s : State) : (s.enterTx).rxbuf = s.rxbuf := rfl
@[simp] theorem State.enterTx_rxCount (s : State) : (s.enterTx).rxCount = s.rxCount := rfl
@[simp] theorem State.enterTx_msgRcvd (s : State) : (s.enterTx).msgRcvd = s.msgRcvd := rfl
@[simp] theorem State.enterTx_dir (s : State) : (s.enterTx).dir = .tx := rfl
@[simp] theorem State.enterTx_lineOut (s : State) : (s.enterTx).lineOut = true := rfl
@[simp] theorem State.enterTx_seq (s : State) : (s.enterTx).seq = s.seq := rfl
@[simp] theorem State.enterTx_rx (s : State) : (s.enterTx).rx = s.rx := rfl
@[simp] theorem State.enterTx_collect (s : State) : (s.enterTx).collect = s.collect := rfl
@[simp] theorem State.enterTx_tx (s : State) : (s.enterTx).tx = s.tx := rfl
@[simp] theorem State.enterTx_afterSend (s : State) : (s.enterTx).afterSend = s.afterSend := rfl
@[simp] theorem State.enterTx_now (s : State) : (s.enterTx).now = s.now := rfl
@[simp] theorem State.enterTx_timerOrigin (s : State) : (s.enterTx).timerOrigin = s.timerOrigin := rfl
@[simp] theorem State.enterTx_peer (s : State) : (s.enterTx).peer = s.peer := rfl
@[simp] theorem State.enterTx_flash (s : State) : (s.enterTx).flash = s.flash := rfl
@[simp] theorem State.enterTx_flashCalls (s : State) : (s.enterTx).flashCalls = s.flashCalls := rfl
@[simp] theorem State.enterTx_transferred (s : State) : (s.enterTx).transferred = s.transferred := rfl
@[simp] theorem State.enterTx_draws (s : State) : (s.enterTx).draws = s.draws := rfl
@[simp] theorem State.enterTx_regs (s : State) : (s.enterTx).regs = s.regs := rfl

/-! ### sendThen -/

@[simp] theorem State.sendThen_currentAddress (a : AfterSend) (r : List Byte) (s : State) : (s.sendThen a r).currentAddress = s.currentAddress := rfl
@[simp] theorem State.sendThen_payloadBufferSize (a : AfterSend) (r : List Byte) (s : State) : (s.sendThen a r).payloadBufferSize = s.payloadBufferSize := rfl
@[simp] theorem State.sendThen_payloadExpected (a : AfterSend) (r : List Byte) (s : State) : (s.sendThen a r).payloadExpected = s.payloadExpected := rfl
@[simp] theorem State.sendThen_failScore (a : AfterSend) (r : List Byte) (s : State) : (s.sendThen a r).failScore = s.failScore := rfl
@[simp] theorem State.sendThen_eepromReq (a : AfterSend) (r : List Byte) (s : State) : (s.sendThen a r).eepromReq = s.eepromReq := rfl
@[simp] theorem State.sendThen_pbuf (a : AfterSend) (r : List Byte) (s : State) : (s.sendThen a r).pbuf = s.pbuf := rfl
@[simp] theorem State.sendThen_rxbuf (a : AfterSend) (r : List Byte) (s : State) : (s.sendThen a r).rxbuf = s.rxbuf := rfl
@[simp] theorem State.sendThen_rxCount (a : AfterSend) (r : List Byte) (s : State) : (s.sendThen a r).rxCount = s.rxCount := rfl
@[simp] theorem State.sendThen_msgRcvd (a : AfterSend) (r : List Byte) (s : State) : (s.sendThen a r).msgRcvd = s.msgRcvd := rfl
@[simp] theorem State.sendThen_dir (a : AfterSend) (r : List Byte) (s : State) : (s.sendThen a r).dir = s.dir := rfl
@[simp] theorem State.sendThen_lineOut (a : AfterSend) (r : List Byte) (s : State) : (s.sendThen a r).lineOut = s.lineOut := rfl
@[simp] theorem State.sendThen_seq (a : AfterSend) (r : List Byte) (s : State) : (s.sendThen a r).seq = .reply := rfl
@[simp] theorem State.sendThen_rx (a : AfterSend) (r : List Byte) (s : State) : (s.sendThen a r).rx = s.rx := rfl
@[simp] theorem State.sendThen_collect (a : AfterSend) (r : List Byte) (s : State) : (s.sendThen a r).collect = s.collect := rfl
@[simp] theorem State.sendThen_tx (a : AfterSend) (r : List Byte) (s : State) : (s.sendThen a r).tx = .enterTx r := rfl
@[simp] theorem State.sendThen_afterSend (a : AfterSend) (r : List Byte) (s : State) : (s.sendThen a r).afterSend = a := rfl
@[simp] theorem State.sendThen_now (a : AfterSend) (r : List Byte) (s : State) : (s.sendThen a r).now = s.now + Config.delay s.draws := rfl
@[simp] theorem State.sendThen_timerOrigin (a : AfterSend) (r : List Byte) (s : State) : (s.sendThen a r).timerOrigin = s.timerOrigin := rfl
@[simp] theorem State.sendThen_peer (a : AfterSend) (r : List Byte) (s : State) : (s.sendThen a r).peer = s.peer := rfl
@[simp] theorem State.sendThen_flash (a : AfterSend) (r : List Byte) (s : State) : (s.sendThen a r).flash = s.flash := rfl
@[simp] theorem State.sendThen_flashCalls (a : AfterSend) (r : List Byte) (s : State) : (s.sendThen a r).flashCalls = s.flashCalls := rfl
@[simp] theorem State.sendThen_transferred (a : AfterSend) (r : List Byte) (s : State) : (s.sendThen a r).transferred = s.transferred := rfl
@[simp] theorem State.sendThen_draws (a : AfterSend) (r : List Byte) (s : State) : (s.sendThen a r).draws = s.draws + 1 := rfl
@[simp] theorem State.sendThen_regs (a : AfterSend) (r : List Byte) (s : State) : (s.sendThen a r).regs = s.regs := rfl

/-! ### send -/

@[simp] theorem State.send_currentAddress (r : List Byte) (s : State) : (s.send r).currentAddress = s.currentAddress := rfl
@[simp] theorem State.send_payloadBufferSize (r : List Byte) (s : State) : (s.send r).payloadBufferSize = s.payloadBufferSize := rfl
@[simp] theorem State.send_payloadExpected (r : List Byte) (s : State) : (s.send r).payloadExpected = s.payloadExpected := rfl
@[simp] theorem State.send_failScore (r : List Byte) (s : State) : (s.send r).failScore = s.failScore := rfl
@[simp] theorem State.send_eepromReq (r : List Byte) (s : State) : (s.send r).eepromReq = s.eepromReq := rfl
@[simp] theorem State.send_pbuf (r : List Byte) (s : State) : (s.send r).pbuf = s.pbuf := rfl
@[simp] theorem State.send_rxbuf (r : List Byte) (s : State) : (s.send r).rxbuf = s.rxbuf := rfl
@[simp] theorem State.send_rxCount (r : List Byte) (s : State) : (s.send r).rxCount = s.rxCount := rfl
@[simp] theorem State.send_msgRcvd (r : List Byte) (s : State) : (s.send r).msgRcvd = s.msgRcvd := rfl
@[simp] theorem State.send_dir (r : List Byte) (s : State) : (s.send r).dir = s.dir := rfl
@[simp] theorem State.send_lineOut (r : List Byte) (s : State) : (s.send r).lineOut = s.lineOut := rfl
@[simp] theorem State.send_seq (r : List Byte) (s : State) : (s.send r).seq = .reply := rfl
@[simp] theorem State.send_rx (r : List Byte) (s : State) : (s.send r).rx = s.rx := rfl
@[simp] theorem State.send_collect (r : List Byte) (s : State) : (s.send r).collect = s.collect := rfl
@[simp] theorem State.send_tx (r : List Byte) (s : State) : (s.send r).tx = .enterTx r := rfl
@[simp] theorem State.send_afterSend (r : List Byte) (s : State) : (s.send r).afterSend = .nothing := rfl
@[simp] theorem State.send_now (r : List Byte) (s : State) : (s.send r).now = s.now + Config.delay s.draws := rfl
@[simp] theorem State.send_timerOrigin (r : List Byte) (s : State) : (s.send r).timerOrigin = s.timerOrigin := rfl
@[simp] theorem State.send_peer (r : List Byte) (s : State) : (s.send r).peer = s.peer := rfl
@[simp] theorem State.send_flash (r : List Byte) (s : State) : (s.send r).flash = s.flash := rfl
@[simp] theorem State.send_flashCalls (r : List Byte) (s : State) : (s.send r).flashCalls = s.flashCalls := rfl
@[simp] theorem State.send_transferred (r : List Byte) (s : State) : (s.send r).transferred = s.transferred := rfl
@[simp] theorem State.send_draws (r : List Byte) (s : State) : (s.send r).draws = s.draws + 1 := rfl
@[simp] theorem State.send_regs (r : List Byte) (s : State) : (s.send r).regs = s.regs := rfl

/-! ### capture -/

@[simp] theorem State.capture_currentAddress (data : List Byte) (s : State) : (s.capture data).currentAddress = s.currentAddress := rfl
@[simp] theorem State.capture_payloadBufferSize (data : List Byte) (s : State) : (s.capture data).payloadBufferSize = s.payloadBufferSize := rfl
@[simp] theorem State.capture_payloadExpected (data : List Byte) (s : State) : (s.capture data).payloadExpected = s.payloadExpected := rfl
@[simp] theorem State.capture_failScore (data : List Byte) (s : State) : (s.capture data).failScore = s.failScore := rfl
@[simp] theorem State.capture_eepromReq (data : List Byte) (s : State) : (s.capture data).eepromReq = s.eepromReq := rfl
@[simp] theorem State.capture_pbuf (data : List Byte) (s : State) : (s.capture data).pbuf = payloadImage data := rfl
@[simp] theorem State.capture_rxbuf (data : List Byte) (s : State) : (s.capture data).rxbuf = s.rxbuf := rfl
@[simp] theorem State.capture_rxCount (data : List Byte) (s : State) : (s.capture data).rxCount = s.rxCount := rfl
@[simp] theorem State.capture_msgRcvd (data : List Byte) (s : State) : (s.capture data).msgRcvd = s.msgRcvd := rfl
@[simp] theorem State.capture_dir (data : List Byte) (s : State) : (s.capture data).dir = s.dir := rfl
@[simp] theorem State.capture_lineOut (data : List Byte) (s : State) : (s.capture data).lineOut = s.lineOut := rfl
@[simp] theorem State.capture_seq (data : List Byte) (s : State) : (s.capture data).seq = s.seq := rfl
@[simp] theorem State.capture_rx (data : List Byte) (s : State) : (s.capture data).rx = s.rx := rfl
@[simp] theorem State.capture_collect (data : List Byte) (s : State) : (s.capture data).collect = s.collect := rfl
@[simp] theorem State.capture_tx (data : List Byte) (s : State) : (s.capture data).tx = s.tx := rfl
@[simp] theorem State.capture_afterSend (data : List Byte) (s : State) : (s.capture data).afterSend = s.afterSend := rfl
@[simp] theorem State.capture_now (data : List Byte) (s : State) : (s.capture data).now = s.now := rfl
@[simp] theorem State.capture_timerOrigin (data : List Byte) (s : State) : (s.capture data).timerOrigin = s.timerOrigin := rfl
@[simp] theorem State.capture_peer (data : List Byte) (s : State) : (s.capture data).peer = s.peer := rfl
@[simp] theorem State.capture_flash (data : List Byte) (s : State) : (s.capture data).flash = s.flash := rfl
@[simp] theorem State.capture_flashCalls (data : List Byte) (s : State) : (s.capture data).flashCalls = s.flashCalls := rfl
@[simp] theorem State.capture_transferred (data : List Byte) (s : State) : (s.capture data).transferred = s.transferred := rfl
@[simp] theorem State.capture_draws (data : List Byte) (s : State) : (s.capture data).draws = s.draws := rfl
@[simp] theorem State.capture_regs (data : List Byte) (s : State) : (s.capture data).regs = { s.regs with pbuf := payloadImage data } := rfl

/-! ### acceptPayload -/

@[simp] theorem State.acceptPayload_currentAddress (data : List Byte) (s : State) : (s.acceptPayload data).currentAddress = s.currentAddress := rfl
@[simp] theorem State.acceptPayload_payloadBufferSize (data : List Byte) (s : State) : (s.acceptPayload data).payloadBufferSize = s.payloadBufferSize := rfl
@[simp] theorem State.acceptPayload_payloadExpected (data : List Byte) (s : State) : (s.acceptPayload data).payloadExpected = s.payloadExpected := rfl
@[simp] theorem State.acceptPayload_failScore (data : List Byte) (s : State) : (s.acceptPayload data).failScore = s.failScore := rfl
@[simp] theorem State.acceptPayload_eepromReq (data : List Byte) (s : State) : (s.acceptPayload data).eepromReq = s.eepromReq := rfl
@[simp] theorem State.acceptPayload_pbuf (data : List Byte) (s : State) : (s.acceptPayload data).pbuf = payloadImage data := rfl
@[simp] theorem State.acceptPayload_rxbuf (data : List Byte) (s : State) : (s.acceptPayload data).rxbuf = s.rxbuf := rfl
@[simp] theorem State.acceptPayload_rxCount (data : List Byte) (s : State) : (s.acceptPayload data).rxCount = s.rxCount := rfl
@[simp] theorem State.acceptPayload_msgRcvd (data : List Byte) (s : State) : (s.acceptPayload data).msgRcvd = s.msgRcvd := rfl
@[simp] theorem State.acceptPayload_dir (data : List Byte) (s : State) : (s.acceptPayload data).dir = s.dir := rfl
@[simp] theorem State.acceptPayload_lineOut (data : List Byte) (s : State) : (s.acceptPayload data).lineOut = s.lineOut := rfl
@[simp] theorem State.acceptPayload_seq (data : List Byte) (s : State) : (s.acceptPayload data).seq = .reply := rfl
@[simp] theorem State.acceptPayload_rx (data : List Byte) (s : State) : (s.acceptPayload data).rx = s.rx := rfl
@[simp] theorem State.acceptPayload_collect (data : List Byte) (s : State) : (s.acceptPayload data).collect = s.collect := rfl
@[simp] theorem State.acceptPayload_tx (data : List Byte) (s : State) : (s.acceptPayload data).tx = .enterTx [Config.ack] := rfl
@[simp] theorem State.acceptPayload_afterSend (data : List Byte) (s : State) : (s.acceptPayload data).afterSend = .leavePayloadMode := rfl
@[simp] theorem State.acceptPayload_now (data : List Byte) (s : State) : (s.acceptPayload data).now = s.now + Config.delay s.draws := rfl
@[simp] theorem State.acceptPayload_timerOrigin (data : List Byte) (s : State) : (s.acceptPayload data).timerOrigin = s.timerOrigin := rfl
@[simp] theorem State.acceptPayload_peer (data : List Byte) (s : State) : (s.acceptPayload data).peer = s.peer := rfl
@[simp] theorem State.acceptPayload_flash (data : List Byte) (s : State) : (s.acceptPayload data).flash = s.flash := rfl
@[simp] theorem State.acceptPayload_flashCalls (data : List Byte) (s : State) : (s.acceptPayload data).flashCalls = s.flashCalls := rfl
@[simp] theorem State.acceptPayload_transferred (data : List Byte) (s : State) : (s.acceptPayload data).transferred = s.transferred := rfl
@[simp] theorem State.acceptPayload_draws (data : List Byte) (s : State) : (s.acceptPayload data).draws = s.draws + 1 := rfl
@[simp] theorem State.acceptPayload_regs (data : List Byte) (s : State) : (s.acceptPayload data).regs = { s.regs with pbuf := payloadImage data } := rfl

/-! ### beginAssembly -/

@[simp] theorem State.beginAssembly_currentAddress (s : State) : (s.beginAssembly).currentAddress = s.currentAddress := rfl
@[simp] theorem State.beginAssembly_payloadBufferSize (s : State) : (s.beginAssembly).payloadBufferSize = s.payloadBufferSize := rfl
@[simp] theorem State.beginAssembly_payloadExpected (s : State) : (s.beginAssembly).payloadExpected = s.payloadExpected := rfl
@[simp] theorem State.beginAssembly_failScore (s : State) : (s.beginAssembly).failScore = s.failScore := rfl
@[simp] theorem State.beginAssembly_eepromReq (s : State) : (s.beginAssembly).eepromReq = s.eepromReq := rfl
@[simp] theorem State.beginAssembly_pbuf (s : State) : (s.beginAssembly).pbuf = s.pbuf := rfl
@[simp] theorem State.beginAssembly_rxbuf (s : State) : (s.beginAssembly).rxbuf = Vector.replicate 258 0 := rfl
@[simp] theorem State.beginAssembly_rxCount (s : State) : (s.beginAssembly).rxCount = 0 := rfl
@[simp] theorem State.beginAssembly_msgRcvd (s : State) : (s.beginAssembly).msgRcvd = false := rfl
@[simp] theorem State.beginAssembly_dir (s : State) : (s.beginAssembly).dir = s.dir := rfl
@[simp] theorem State.beginAssembly_lineOut (s : State) : (s.beginAssembly).lineOut = s.lineOut := rfl
@[simp] theorem State.beginAssembly_seq (s : State) : (s.beginAssembly).seq = s.seq := rfl
@[simp] theorem State.beginAssembly_rx (s : State) : (s.beginAssembly).rx = .reading .enter := rfl
@[simp] theorem State.beginAssembly_collect (s : State) : (s.beginAssembly).collect = if s.payloadExpected then .payload (s.payloadBufferSize.toNat + 2) else .command := rfl
@[simp] theorem State.beginAssembly_tx (s : State) : (s.beginAssembly).tx = s.tx := rfl
@[simp] theorem State.beginAssembly_afterSend (s : State) : (s.beginAssembly).afterSend = s.afterSend := rfl
@[simp] theorem State.beginAssembly_now (s : State) : (s.beginAssembly).now = s.now := rfl
@[simp] theorem State.beginAssembly_timerOrigin (s : State) : (s.beginAssembly).timerOrigin = s.timerOrigin := rfl
@[simp] theorem State.beginAssembly_peer (s : State) : (s.beginAssembly).peer = s.peer := rfl
@[simp] theorem State.beginAssembly_flash (s : State) : (s.beginAssembly).flash = s.flash := rfl
@[simp] theorem State.beginAssembly_flashCalls (s : State) : (s.beginAssembly).flashCalls = s.flashCalls := rfl
@[simp] theorem State.beginAssembly_transferred (s : State) : (s.beginAssembly).transferred = s.transferred := rfl
@[simp] theorem State.beginAssembly_draws (s : State) : (s.beginAssembly).draws = s.draws := rfl
@[simp] theorem State.beginAssembly_regs (s : State) : (s.beginAssembly).regs = s.regs := rfl

/-! ### conclude -/

@[simp] theorem State.conclude_currentAddress (s : State) : (s.conclude).currentAddress = s.currentAddress := rfl
@[simp] theorem State.conclude_payloadBufferSize (s : State) : (s.conclude).payloadBufferSize = s.payloadBufferSize := rfl
@[simp] theorem State.conclude_payloadExpected (s : State) : (s.conclude).payloadExpected = s.payloadExpected := rfl
@[simp] theorem State.conclude_failScore (s : State) : (s.conclude).failScore = s.failScore := rfl
@[simp] theorem State.conclude_eepromReq (s : State) : (s.conclude).eepromReq = s.eepromReq := rfl
@[simp] theorem State.conclude_pbuf (s : State) : (s.conclude).pbuf = s.pbuf := rfl
@[simp] theorem State.conclude_rxbuf (s : State) : (s.conclude).rxbuf = s.rxbuf := rfl
@[simp] theorem State.conclude_rxCount (s : State) : (s.conclude).rxCount = s.rxCount := rfl
@[simp] theorem State.conclude_msgRcvd (s : State) : (s.conclude).msgRcvd = s.msgRcvd := rfl
@[simp] theorem State.conclude_dir (s : State) : (s.conclude).dir = s.dir := rfl
@[simp] theorem State.conclude_lineOut (s : State) : (s.conclude).lineOut = s.lineOut := rfl
@[simp] theorem State.conclude_seq (s : State) : (s.conclude).seq = .jumpTest := rfl
@[simp] theorem State.conclude_rx (s : State) : (s.conclude).rx = s.rx := rfl
@[simp] theorem State.conclude_collect (s : State) : (s.conclude).collect = s.collect := rfl
@[simp] theorem State.conclude_tx (s : State) : (s.conclude).tx = s.tx := rfl
@[simp] theorem State.conclude_afterSend (s : State) : (s.conclude).afterSend = s.afterSend := rfl
@[simp] theorem State.conclude_now (s : State) : (s.conclude).now = s.now + Config.delay s.draws := rfl
@[simp] theorem State.conclude_timerOrigin (s : State) : (s.conclude).timerOrigin = s.timerOrigin := rfl
@[simp] theorem State.conclude_peer (s : State) : (s.conclude).peer = s.peer := rfl
@[simp] theorem State.conclude_flash (s : State) : (s.conclude).flash = s.flash := rfl
@[simp] theorem State.conclude_flashCalls (s : State) : (s.conclude).flashCalls = s.flashCalls := rfl
@[simp] theorem State.conclude_transferred (s : State) : (s.conclude).transferred = s.transferred := rfl
@[simp] theorem State.conclude_draws (s : State) : (s.conclude).draws = s.draws + 1 := rfl
@[simp] theorem State.conclude_regs (s : State) : (s.conclude).regs = s.regs := rfl

/-! ### complete -/

@[simp] theorem State.complete_currentAddress (s : State) : (s.complete).currentAddress = s.currentAddress := rfl
@[simp] theorem State.complete_payloadBufferSize (s : State) : (s.complete).payloadBufferSize = s.payloadBufferSize := rfl
@[simp] theorem State.complete_payloadExpected (s : State) : (s.complete).payloadExpected = s.payloadExpected := rfl
@[simp] theorem State.complete_failScore (s : State) : (s.complete).failScore = s.failScore := rfl
@[simp] theorem State.complete_eepromReq (s : State) : (s.complete).eepromReq = s.eepromReq := rfl
@[simp] theorem State.complete_pbuf (s : State) : (s.complete).pbuf = s.pbuf := rfl
@[simp] theorem State.complete_rxbuf (s : State) : (s.complete).rxbuf = s.rxbuf := rfl
@[simp] theorem State.complete_rxCount (s : State) : (s.complete).rxCount = s.rxCount := rfl
@[simp] theorem State.complete_msgRcvd (s : State) : (s.complete).msgRcvd = s.msgRcvd := rfl
@[simp] theorem State.complete_dir (s : State) : (s.complete).dir = s.dir := rfl
@[simp] theorem State.complete_lineOut (s : State) : (s.complete).lineOut = s.lineOut := rfl
@[simp] theorem State.complete_seq (s : State) : (s.complete).seq = .dispatch := rfl
@[simp] theorem State.complete_rx (s : State) : (s.complete).rx = .clear := rfl
@[simp] theorem State.complete_collect (s : State) : (s.complete).collect = s.collect := rfl
@[simp] theorem State.complete_tx (s : State) : (s.complete).tx = s.tx := rfl
@[simp] theorem State.complete_afterSend (s : State) : (s.complete).afterSend = s.afterSend := rfl
@[simp] theorem State.complete_now (s : State) : (s.complete).now = s.now := rfl
@[simp] theorem State.complete_timerOrigin (s : State) : (s.complete).timerOrigin = s.timerOrigin := rfl
@[simp] theorem State.complete_peer (s : State) : (s.complete).peer = s.peer := rfl
@[simp] theorem State.complete_flash (s : State) : (s.complete).flash = s.flash := rfl
@[simp] theorem State.complete_flashCalls (s : State) : (s.complete).flashCalls = s.flashCalls := rfl
@[simp] theorem State.complete_transferred (s : State) : (s.complete).transferred = s.transferred := rfl
@[simp] theorem State.complete_draws (s : State) : (s.complete).draws = s.draws := rfl
@[simp] theorem State.complete_regs (s : State) : (s.complete).regs = s.regs := rfl

/-! ### abort -/

@[simp] theorem State.abort_currentAddress (s : State) : (s.abort).currentAddress = s.currentAddress := rfl
@[simp] theorem State.abort_payloadBufferSize (s : State) : (s.abort).payloadBufferSize = s.payloadBufferSize := rfl
@[simp] theorem State.abort_payloadExpected (s : State) : (s.abort).payloadExpected = s.payloadExpected := rfl
@[simp] theorem State.abort_failScore (s : State) : (s.abort).failScore = s.failScore := rfl
@[simp] theorem State.abort_eepromReq (s : State) : (s.abort).eepromReq = s.eepromReq := rfl
@[simp] theorem State.abort_pbuf (s : State) : (s.abort).pbuf = s.pbuf := rfl
@[simp] theorem State.abort_rxbuf (s : State) : (s.abort).rxbuf = s.rxbuf := rfl
@[simp] theorem State.abort_rxCount (s : State) : (s.abort).rxCount = s.rxCount := rfl
@[simp] theorem State.abort_msgRcvd (s : State) : (s.abort).msgRcvd = s.msgRcvd := rfl
@[simp] theorem State.abort_dir (s : State) : (s.abort).dir = s.dir := rfl
@[simp] theorem State.abort_lineOut (s : State) : (s.abort).lineOut = s.lineOut := rfl
@[simp] theorem State.abort_seq (s : State) : (s.abort).seq = .jumpTest := rfl
@[simp] theorem State.abort_rx (s : State) : (s.abort).rx = .clear := rfl
@[simp] theorem State.abort_collect (s : State) : (s.abort).collect = s.collect := rfl
@[simp] theorem State.abort_tx (s : State) : (s.abort).tx = s.tx := rfl
@[simp] theorem State.abort_afterSend (s : State) : (s.abort).afterSend = s.afterSend := rfl
@[simp] theorem State.abort_now (s : State) : (s.abort).now = s.now := rfl
@[simp] theorem State.abort_timerOrigin (s : State) : (s.abort).timerOrigin = s.timerOrigin := rfl
@[simp] theorem State.abort_peer (s : State) : (s.abort).peer = s.peer := rfl
@[simp] theorem State.abort_flash (s : State) : (s.abort).flash = s.flash := rfl
@[simp] theorem State.abort_flashCalls (s : State) : (s.abort).flashCalls = s.flashCalls := rfl
@[simp] theorem State.abort_transferred (s : State) : (s.abort).transferred = s.transferred := rfl
@[simp] theorem State.abort_draws (s : State) : (s.abort).draws = s.draws := rfl
@[simp] theorem State.abort_regs (s : State) : (s.abort).regs = s.regs := rfl

/-! ### nextCycle -/

@[simp] theorem State.nextCycle_currentAddress (s : State) : (s.nextCycle).currentAddress = s.currentAddress := rfl
@[simp] theorem State.nextCycle_payloadBufferSize (s : State) : (s.nextCycle).payloadBufferSize = s.payloadBufferSize := rfl
@[simp] theorem State.nextCycle_payloadExpected (s : State) : (s.nextCycle).payloadExpected = s.payloadExpected := rfl
@[simp] theorem State.nextCycle_failScore (s : State) : (s.nextCycle).failScore = s.failScore := rfl
@[simp] theorem State.nextCycle_eepromReq (s : State) : (s.nextCycle).eepromReq = s.eepromReq := rfl
@[simp] theorem State.nextCycle_pbuf (s : State) : (s.nextCycle).pbuf = s.pbuf := rfl
@[simp] theorem State.nextCycle_rxbuf (s : State) : (s.nextCycle).rxbuf = s.rxbuf := rfl
@[simp] theorem State.nextCycle_rxCount (s : State) : (s.nextCycle).rxCount = s.rxCount := rfl
@[simp] theorem State.nextCycle_msgRcvd (s : State) : (s.nextCycle).msgRcvd = s.msgRcvd := rfl
@[simp] theorem State.nextCycle_dir (s : State) : (s.nextCycle).dir = s.dir := rfl
@[simp] theorem State.nextCycle_lineOut (s : State) : (s.nextCycle).lineOut = s.lineOut := rfl
@[simp] theorem State.nextCycle_seq (s : State) : (s.nextCycle).seq = .assemble := rfl
@[simp] theorem State.nextCycle_rx (s : State) : (s.nextCycle).rx = .clear := rfl
@[simp] theorem State.nextCycle_collect (s : State) : (s.nextCycle).collect = s.collect := rfl
@[simp] theorem State.nextCycle_tx (s : State) : (s.nextCycle).tx = s.tx := rfl
@[simp] theorem State.nextCycle_afterSend (s : State) : (s.nextCycle).afterSend = s.afterSend := rfl
@[simp] theorem State.nextCycle_now (s : State) : (s.nextCycle).now = s.now + Config.delay s.draws := rfl
@[simp] theorem State.nextCycle_timerOrigin (s : State) : (s.nextCycle).timerOrigin = s.timerOrigin := rfl
@[simp] theorem State.nextCycle_peer (s : State) : (s.nextCycle).peer = s.peer := rfl
@[simp] theorem State.nextCycle_flash (s : State) : (s.nextCycle).flash = s.flash := rfl
@[simp] theorem State.nextCycle_flashCalls (s : State) : (s.nextCycle).flashCalls = s.flashCalls := rfl
@[simp] theorem State.nextCycle_transferred (s : State) : (s.nextCycle).transferred = s.transferred := rfl
@[simp] theorem State.nextCycle_draws (s : State) : (s.nextCycle).draws = s.draws + 1 := rfl
@[simp] theorem State.nextCycle_regs (s : State) : (s.nextCycle).regs = s.regs := rfl

/-! ### readAt -/

@[simp] theorem State.readAt_currentAddress (p : ReadPhase) (s : State) : (s.readAt p).currentAddress = s.currentAddress := rfl
@[simp] theorem State.readAt_payloadBufferSize (p : ReadPhase) (s : State) : (s.readAt p).payloadBufferSize = s.payloadBufferSize := rfl
@[simp] theorem State.readAt_payloadExpected (p : ReadPhase) (s : State) : (s.readAt p).payloadExpected = s.payloadExpected := rfl
@[simp] theorem State.readAt_failScore (p : ReadPhase) (s : State) : (s.readAt p).failScore = s.failScore := rfl
@[simp] theorem State.readAt_eepromReq (p : ReadPhase) (s : State) : (s.readAt p).eepromReq = s.eepromReq := rfl
@[simp] theorem State.readAt_pbuf (p : ReadPhase) (s : State) : (s.readAt p).pbuf = s.pbuf := rfl
@[simp] theorem State.readAt_rxbuf (p : ReadPhase) (s : State) : (s.readAt p).rxbuf = s.rxbuf := rfl
@[simp] theorem State.readAt_rxCount (p : ReadPhase) (s : State) : (s.readAt p).rxCount = s.rxCount := rfl
@[simp] theorem State.readAt_msgRcvd (p : ReadPhase) (s : State) : (s.readAt p).msgRcvd = s.msgRcvd := rfl
@[simp] theorem State.readAt_dir (p : ReadPhase) (s : State) : (s.readAt p).dir = s.dir := rfl
@[simp] theorem State.readAt_lineOut (p : ReadPhase) (s : State) : (s.readAt p).lineOut = s.lineOut := rfl
@[simp] theorem State.readAt_seq (p : ReadPhase) (s : State) : (s.readAt p).seq = s.seq := rfl
@[simp] theorem State.readAt_rx (p : ReadPhase) (s : State) : (s.readAt p).rx = .reading p := rfl
@[simp] theorem State.readAt_collect (p : ReadPhase) (s : State) : (s.readAt p).collect = s.collect := rfl
@[simp] theorem State.readAt_tx (p : ReadPhase) (s : State) : (s.readAt p).tx = s.tx := rfl
@[simp] theorem State.readAt_afterSend (p : ReadPhase) (s : State) : (s.readAt p).afterSend = s.afterSend := rfl
@[simp] theorem State.readAt_now (p : ReadPhase) (s : State) : (s.readAt p).now = s.now := rfl
@[simp] theorem State.readAt_timerOrigin (p : ReadPhase) (s : State) : (s.readAt p).timerOrigin = s.timerOrigin := rfl
@[simp] theorem State.readAt_peer (p : ReadPhase) (s : State) : (s.readAt p).peer = s.peer := rfl
@[simp] theorem State.readAt_flash (p : ReadPhase) (s : State) : (s.readAt p).flash = s.flash := rfl
@[simp] theorem State.readAt_flashCalls (p : ReadPhase) (s : State) : (s.readAt p).flashCalls = s.flashCalls := rfl
@[simp] theorem State.readAt_transferred (p : ReadPhase) (s : State) : (s.readAt p).transferred = s.transferred := rfl
@[simp] theorem State.readAt_draws (p : ReadPhase) (s : State) : (s.readAt p).draws = s.draws := rfl
@[simp] theorem State.readAt_regs (p : ReadPhase) (s : State) : (s.readAt p).regs = s.regs := rfl

/-! ### sendAt -/

@[simp] theorem State.sendAt_currentAddress (p : TxPhase) (s : State) : (s.sendAt p).currentAddress = s.currentAddress := rfl
@[simp] theorem State.sendAt_payloadBufferSize (p : TxPhase) (s : State) : (s.sendAt p).payloadBufferSize = s.payloadBufferSize := rfl
@[simp] theorem State.sendAt_payloadExpected (p : TxPhase) (s : State) : (s.sendAt p).payloadExpected = s.payloadExpected := rfl
@[simp] theorem State.sendAt_failScore (p : TxPhase) (s : State) : (s.sendAt p).failScore = s.failScore := rfl
@[simp] theorem State.sendAt_eepromReq (p : TxPhase) (s : State) : (s.sendAt p).eepromReq = s.eepromReq := rfl
@[simp] theorem State.sendAt_pbuf (p : TxPhase) (s : State) : (s.sendAt p).pbuf = s.pbuf := rfl
@[simp] theorem State.sendAt_rxbuf (p : TxPhase) (s : State) : (s.sendAt p).rxbuf = s.rxbuf := rfl
@[simp] theorem State.sendAt_rxCount (p : TxPhase) (s : State) : (s.sendAt p).rxCount = s.rxCount := rfl
@[simp] theorem State.sendAt_msgRcvd (p : TxPhase) (s : State) : (s.sendAt p).msgRcvd = s.msgRcvd := rfl
@[simp] theorem State.sendAt_dir (p : TxPhase) (s : State) : (s.sendAt p).dir = s.dir := rfl
@[simp] theorem State.sendAt_lineOut (p : TxPhase) (s : State) : (s.sendAt p).lineOut = s.lineOut := rfl
@[simp] theorem State.sendAt_seq (p : TxPhase) (s : State) : (s.sendAt p).seq = s.seq := rfl
@[simp] theorem State.sendAt_rx (p : TxPhase) (s : State) : (s.sendAt p).rx = s.rx := rfl
@[simp] theorem State.sendAt_collect (p : TxPhase) (s : State) : (s.sendAt p).collect = s.collect := rfl
@[simp] theorem State.sendAt_tx (p : TxPhase) (s : State) : (s.sendAt p).tx = p := rfl
@[simp] theorem State.sendAt_afterSend (p : TxPhase) (s : State) : (s.sendAt p).afterSend = s.afterSend := rfl
@[simp] theorem State.sendAt_now (p : TxPhase) (s : State) : (s.sendAt p).now = s.now := rfl
@[simp] theorem State.sendAt_timerOrigin (p : TxPhase) (s : State) : (s.sendAt p).timerOrigin = s.timerOrigin := rfl
@[simp] theorem State.sendAt_peer (p : TxPhase) (s : State) : (s.sendAt p).peer = s.peer := rfl
@[simp] theorem State.sendAt_flash (p : TxPhase) (s : State) : (s.sendAt p).flash = s.flash := rfl
@[simp] theorem State.sendAt_flashCalls (p : TxPhase) (s : State) : (s.sendAt p).flashCalls = s.flashCalls := rfl
@[simp] theorem State.sendAt_transferred (p : TxPhase) (s : State) : (s.sendAt p).transferred = s.transferred := rfl
@[simp] theorem State.sendAt_draws (p : TxPhase) (s : State) : (s.sendAt p).draws = s.draws := rfl
@[simp] theorem State.sendAt_regs (p : TxPhase) (s : State) : (s.sendAt p).regs = s.regs := rfl

/-! ### carryOut -/

@[simp] theorem State.carryOut_currentAddress (s : State) : (s.carryOut).currentAddress = s.currentAddress := rfl
@[simp] theorem State.carryOut_payloadBufferSize (s : State) : (s.carryOut).payloadBufferSize = s.payloadBufferSize := rfl
@[simp] theorem State.carryOut_payloadExpected (s : State) : (s.carryOut).payloadExpected = s.afterSend.expected s.payloadExpected := rfl
@[simp] theorem State.carryOut_failScore (s : State) : (s.carryOut).failScore = s.afterSend.score s.failScore := rfl
@[simp] theorem State.carryOut_eepromReq (s : State) : (s.carryOut).eepromReq = s.eepromReq := rfl
@[simp] theorem State.carryOut_pbuf (s : State) : (s.carryOut).pbuf = s.pbuf := rfl
@[simp] theorem State.carryOut_rxbuf (s : State) : (s.carryOut).rxbuf = s.rxbuf := rfl
@[simp] theorem State.carryOut_rxCount (s : State) : (s.carryOut).rxCount = s.rxCount := rfl
@[simp] theorem State.carryOut_msgRcvd (s : State) : (s.carryOut).msgRcvd = s.msgRcvd := rfl
@[simp] theorem State.carryOut_dir (s : State) : (s.carryOut).dir = s.dir := rfl
@[simp] theorem State.carryOut_lineOut (s : State) : (s.carryOut).lineOut = s.lineOut := rfl
@[simp] theorem State.carryOut_seq (s : State) : (s.carryOut).seq = s.seq := rfl
@[simp] theorem State.carryOut_rx (s : State) : (s.carryOut).rx = s.rx := rfl
@[simp] theorem State.carryOut_collect (s : State) : (s.carryOut).collect = s.collect := rfl
@[simp] theorem State.carryOut_tx (s : State) : (s.carryOut).tx = s.tx := rfl
@[simp] theorem State.carryOut_afterSend (s : State) : (s.carryOut).afterSend = .nothing := rfl
@[simp] theorem State.carryOut_now (s : State) : (s.carryOut).now = s.now := rfl
@[simp] theorem State.carryOut_timerOrigin (s : State) : (s.carryOut).timerOrigin = s.timerOrigin := rfl
@[simp] theorem State.carryOut_peer (s : State) : (s.carryOut).peer = s.peer := rfl
@[simp] theorem State.carryOut_flash (s : State) : (s.carryOut).flash = s.flash := rfl
@[simp] theorem State.carryOut_flashCalls (s : State) : (s.carryOut).flashCalls = s.flashCalls := rfl
@[simp] theorem State.carryOut_transferred (s : State) : (s.carryOut).transferred = s.transferred := rfl
@[simp] theorem State.carryOut_draws (s : State) : (s.carryOut).draws = s.draws := rfl
@[simp] theorem State.carryOut_regs (s : State) : (s.carryOut).regs = { s.regs with
    payloadExpected := s.afterSend.expected s.payloadExpected, failScore := s.afterSend.score s.failScore } := rfl

/-! ### finishReply -/

@[simp] theorem State.finishReply_currentAddress (s : State) : (s.finishReply).currentAddress = s.currentAddress := rfl
@[simp] theorem State.finishReply_payloadBufferSize (s : State) : (s.finishReply).payloadBufferSize = s.payloadBufferSize := rfl
@[simp] theorem State.finishReply_payloadExpected (s : State) : (s.finishReply).payloadExpected = s.afterSend.expected s.payloadExpected := rfl
@[simp] theorem State.finishReply_failScore (s : State) : (s.finishReply).failScore = s.afterSend.score s.failScore := rfl
@[simp] theorem State.finishReply_eepromReq (s : State) : (s.finishReply).eepromReq = s.eepromReq := rfl
@[simp] theorem State.finishReply_pbuf (s : State) : (s.finishReply).pbuf = s.pbuf := rfl
@[simp] theorem State.finishReply_rxbuf (s : State) : (s.finishReply).rxbuf = s.rxbuf := rfl
@[simp] theorem State.finishReply_rxCount (s : State) : (s.finishReply).rxCount = s.rxCount := rfl
@[simp] theorem State.finishReply_msgRcvd (s : State) : (s.finishReply).msgRcvd = s.msgRcvd := rfl
@[simp] theorem State.finishReply_dir (s : State) : (s.finishReply).dir = .rx := rfl
@[simp] theorem State.finishReply_lineOut (s : State) : (s.finishReply).lineOut = s.lineOut := rfl
@[simp] theorem State.finishReply_seq (s : State) : (s.finishReply).seq = .jumpTest := rfl
@[simp] theorem State.finishReply_rx (s : State) : (s.finishReply).rx = s.rx := rfl
@[simp] theorem State.finishReply_collect (s : State) : (s.finishReply).collect = s.collect := rfl
@[simp] theorem State.finishReply_tx (s : State) : (s.finishReply).tx = .idle := rfl
@[simp] theorem State.finishReply_afterSend (s : State) : (s.finishReply).afterSend = .nothing := rfl
@[simp] theorem State.finishReply_now (s : State) : (s.finishReply).now = s.now := rfl
@[simp] theorem State.finishReply_timerOrigin (s : State) : (s.finishReply).timerOrigin = s.timerOrigin := rfl
@[simp] theorem State.finishReply_peer (s : State) : (s.finishReply).peer = s.peer := rfl
@[simp] theorem State.finishReply_flash (s : State) : (s.finishReply).flash = s.flash := rfl
@[simp] theorem State.finishReply_flashCalls (s : State) : (s.finishReply).flashCalls = s.flashCalls := rfl
@[simp] theorem State.finishReply_transferred (s : State) : (s.finishReply).transferred = s.transferred := rfl
@[simp] theorem State.finishReply_draws (s : State) : (s.finishReply).draws = s.draws := rfl
@[simp] theorem State.finishReply_regs (s : State) : (s.finishReply).regs = { s.regs with
    payloadExpected := s.afterSend.expected s.payloadExpected, failScore := s.afterSend.score s.failScore } := rfl

/-! ### storeByte -/

@[simp] theorem State.storeByte_currentAddress (b : Byte) (s : State) : (s.storeByte b).currentAddress = s.currentAddress := rfl
@[simp] theorem State.storeByte_payloadBufferSize (b : Byte) (s : State) : (s.storeByte b).payloadBufferSize = s.payloadBufferSize := rfl
@[simp] theorem State.storeByte_payloadExpected (b : Byte) (s : State) : (s.storeByte b).payloadExpected = s.payloadExpected := rfl
@[simp] theorem State.storeByte_failScore (b : Byte) (s : State) : (s.storeByte b).failScore = s.failScore := rfl
@[simp] theorem State.storeByte_eepromReq (b : Byte) (s : State) : (s.storeByte b).eepromReq = s.eepromReq := rfl
@[simp] theorem State.storeByte_pbuf (b : Byte) (s : State) : (s.storeByte b).pbuf = s.pbuf := rfl
@[simp] theorem State.storeByte_rxbuf (b : Byte) (s : State) : (s.storeByte b).rxbuf = s.rxbuf.setIfInBounds s.rxCount b := rfl
@[simp] theorem State.storeByte_rxCount (b : Byte) (s : State) : (s.storeByte b).rxCount = s.rxCount + 1 := rfl
@[simp] theorem State.storeByte_msgRcvd (b : Byte) (s : State) : (s.storeByte b).msgRcvd = true := rfl
@[simp] theorem State.storeByte_dir (b : Byte) (s : State) : (s.storeByte b).dir = s.dir := rfl
@[simp] theorem State.storeByte_lineOut (b : Byte) (s : State) : (s.storeByte b).lineOut = s.lineOut := rfl
@[simp] theorem State.storeByte_seq (b : Byte) (s : State) : (s.storeByte b).seq = s.seq := rfl
@[simp] theorem State.storeByte_rx (b : Byte) (s : State) : (s.storeByte b).rx = s.rx := rfl
@[simp] theorem State.storeByte_collect (b : Byte) (s : State) : (s.storeByte b).collect = s.collect := rfl
@[simp] theorem State.storeByte_tx (b : Byte) (s : State) : (s.storeByte b).tx = s.tx := rfl
@[simp] theorem State.storeByte_afterSend (b : Byte) (s : State) : (s.storeByte b).afterSend = s.afterSend := rfl
@[simp] theorem State.storeByte_now (b : Byte) (s : State) : (s.storeByte b).now = s.now := rfl
@[simp] theorem State.storeByte_timerOrigin (b : Byte) (s : State) : (s.storeByte b).timerOrigin = s.timerOrigin := rfl
@[simp] theorem State.storeByte_peer (b : Byte) (s : State) : (s.storeByte b).peer = s.peer := rfl
@[simp] theorem State.storeByte_flash (b : Byte) (s : State) : (s.storeByte b).flash = s.flash := rfl
@[simp] theorem State.storeByte_flashCalls (b : Byte) (s : State) : (s.storeByte b).flashCalls = s.flashCalls := rfl
@[simp] theorem State.storeByte_transferred (b : Byte) (s : State) : (s.storeByte b).transferred = s.transferred := rfl
@[simp] theorem State.storeByte_draws (b : Byte) (s : State) : (s.storeByte b).draws = s.draws := rfl
@[simp] theorem State.storeByte_regs (b : Byte) (s : State) : (s.storeByte b).regs = s.regs := rfl

/-! ### What waits for Send to return -/

@[simp] theorem AfterSend.expected_nothing (v : Bool) : AfterSend.expected .nothing v = v := rfl
@[simp] theorem AfterSend.score_nothing (k : U16) : AfterSend.score .nothing k = k := rfl
@[simp] theorem AfterSend.expected_leavePayloadMode (v : Bool) : AfterSend.expected .leavePayloadMode v = false := rfl
@[simp] theorem AfterSend.score_leavePayloadMode (k : U16) : AfterSend.score .leavePayloadMode k = k := rfl
@[simp] theorem AfterSend.expected_countUnknown (v : Bool) : AfterSend.expected .countUnknown v = v := rfl
@[simp] theorem AfterSend.score_countUnknown (k : U16) : AfterSend.score .countUnknown k = k + 1 := rfl

end Sys2Proof.Machine
end

