-- ==== Sys2Proof/Laws/Ops.lean ====
section
/-!
SUPPORT. For each shared operation, once, everything it can do. Later proofs cite these and do not unfold the operation.
-/

namespace Sys2Proof.Machine

/-! ### Decoding -/

/-- A probe site matches exactly where the frame has the marker and the two tags (43_commands.md R161). -/
theorem siteMatches_iff (f : List Byte) (p : ProbeSite) :
    siteMatches f p = true ↔ f.getD p.marker 0 = 0x7D ∧ f.getD p.tag0 0 = 13 ∧ f.getD p.tag1 0 = 66 := by
  unfold siteMatches
  rw [Bool.and_eq_true, Bool.and_eq_true, beq_iff_eq, beq_iff_eq, beq_iff_eq, and_assoc]
  rfl

/-- When and what the decoder answers (30_encoding.md R73, R83). -/
theorem decode_ok {m : FrameMode} {f : List Byte} {i : Instr} (h : decode m f = .ok i) :
    f ≠ [] ∧ f.length ≤ 258 ∧
      ((m = .command ∧ i = decodeCommand f) ∨ ∃ n, m = .payload n ∧ n ≤ 256 ∧ i = decodePayload n f) := by
  unfold decode at h
  split at h
  · cases h
  split at h
  · cases h
  next h1 h2 =>
  refine ⟨h1, Nat.le_of_not_lt h2, ?_⟩
  split at h
  · cases h; exact .inl ⟨rfl, rfl⟩
  · split at h
    · cases h
    · next n h3 => cases h; exact .inr ⟨n, rfl, Nat.le_of_not_lt h3, rfl⟩

/-! ### Commands -/

/-- What the CRC check of a command does. -/
theorem State.ifCrc_cases (span : List Byte) (lo hi : Byte) (act : State → State) (s : State) :
    (verify span lo hi = true ∧ s.ifCrc span lo hi act = act s) ∨
      (verify span lo hi = false ∧ s.ifCrc span lo hi act = s.send [Config.badCrc]) := by
  unfold State.ifCrc
  cases verify span lo hi
  · exact .inr ⟨rfl, rfl⟩
  · exact .inl ⟨rfl, rfl⟩

/-- Going into a reply leaves everything but the sequencer, the position around `Send`, time and the draws. -/
theorem State.sendThen_replies (s : State) (a : AfterSend) (r : List Byte) : RepliesThen a s (s.sendThen a r) r :=
  ⟨⟨rfl, rfl, rfl, rfl, rfl, rfl, rfl, rfl, rfl, rfl⟩, Nat.le_add_right _ _, rfl, rfl, rfl⟩

/-- The same for a reply with nothing to be done after it. -/
theorem State.send_replies (s : State) (r : List Byte) : Replies s (s.send r) r := s.sendThen_replies .nothing r

/-- A command without a reply leaves everything but the sequencer, time and the draws. -/
theorem State.conclude_endsSilently (s : State) : EndsSilently s s.conclude :=
  ⟨⟨rfl, rfl, rfl, rfl, rfl, rfl, rfl, rfl, rfl, rfl⟩, Nat.le_add_right _ _, rfl, rfl, rfl⟩

/-- What a flash write does: it stores the data or free bytes, by its free result, and is logged. -/
theorem State.memWrite_eq (a : U32) (data : List Byte) (s : State) :
    s.memWrite a data = (Config.flashWriteOk s.draws,
      { s with
        flash := s.flash.writeBytes a (storedBytes s.draws (Config.flashWriteOk s.draws) data)
        flashCalls := .write a data :: s.flashCalls
        draws := s.draws + 1 }) := rfl

/-- A failed write leaves as many bytes as it was given. -/
@[simp] theorem storedBytes_length (d : Nat) (ok : Bool) (data : List Byte) :
    (storedBytes d ok data).length = data.length := by
  cases ok <;> simp [storedBytes]

/-- What PROG_FLASH does after its CRC check. -/
theorem State.program_cases (s : State) :
    (writable s.currentAddress = true ∧
      s.program = (s.memWrite s.currentAddress s.storedPayload).2.send
        [if Config.flashWriteOk s.draws then Config.ack else Config.nack]) ∨
    (writable s.currentAddress = false ∧ s.program = s.send [Config.nack]) := by
  unfold State.program
  cases writable s.currentAddress
  · exact .inr ⟨rfl, rfl⟩
  · refine .inl ⟨rfl, ?_⟩
    rw [State.memWrite_eq]
    cases Config.flashWriteOk s.draws <;> rfl

/-! ### The receive side -/

/-- In RX the pin shows the peer's drive, or 1 (41_transport.md R128). -/
theorem State.pinLevel_rx {s : State} (h : s.dir = .rx) : s.pinLevel = lineAt s s.now := by
  unfold State.pinLevel lineAt State.peerDrive
  rw [h]
  cases peerAt s.now s.peer .released <;> rfl

/-- What one step of `read_byte` changes of the state while the call goes on: time, the timer's origin, the place. -/
theorem readByteStep_still {p : ReadPhase} {s t : State} (h : readByteStep p s = .still t) :
    ∃ x d o, t = { s with rx := x, now := s.now + d, timerOrigin := o } ∧ (o = s.timerOrigin ∨ o = s.now) ∧
      (x = s.rx ∨ ∃ q, x = .reading q ∧ ReadPhaseOk q) := by
  cases p with
  | enter => cases h; exact ⟨_, 0, s.now, rfl, .inr rfl, .inr ⟨.idleWait, rfl, trivial⟩⟩
  | idleWait =>
    simp only [readByteStep] at h
    split at h
    · cases h; exact ⟨_, 0, s.timerOrigin, rfl, .inl rfl, .inr ⟨.startWait, rfl, trivial⟩⟩
    · split at h
      · cases h
      · cases h; exact ⟨s.rx, _, s.timerOrigin, rfl, .inl rfl, .inl rfl⟩
  | startWait =>
    simp only [readByteStep] at h
    split at h
    · cases h; exact ⟨_, 0, s.timerOrigin, rfl, .inl rfl, .inr ⟨.startCheck, rfl, trivial⟩⟩
    · split at h
      · cases h
      · cases h; exact ⟨s.rx, _, s.timerOrigin, rfl, .inl rfl, .inl rfl⟩
  | startCheck =>
    simp only [readByteStep] at h
    split at h
    · cases h
    · cases h; exact ⟨_, _, s.timerOrigin, rfl, .inl rfl, .inr ⟨.dataBit 0 0, rfl, Nat.zero_lt_succ 7⟩⟩
  | dataBit i d =>
    cases h
    refine ⟨_, _, s.timerOrigin, rfl, .inl rfl, .inr ⟨_, rfl, ?_⟩⟩
    split
    · next hi => exact Nat.succ_lt_succ hi
    · trivial
  | stopCheck d =>
    simp only [readByteStep] at h
    split at h <;> cases h

/-- With which outcome, and when, `read_byte` returns: the state has only waited. -/
theorem readByteStep_done {p : ReadPhase} {s t : State} {r : ReadOutcome} (h : readByteStep p s = .done r t) :
    (p = .idleWait ∧ r = .idleTimeout ∧ t = s) ∨ (p = .startWait ∧ r = .noStart ∧ t = s ∧ s.msgRcvd = true) ∨
      (p = .startCheck ∧ r = .badStart ∧ t = s.wait Config.timing.tHalf) ∨
      (∃ d, p = .stopCheck d ∧ (r = .byte d ∨ r = .badStop) ∧ t = s.wait Config.timing.tBit) := by
  cases p with
  | enter => cases h
  | idleWait =>
    simp only [readByteStep] at h
    split at h
    · cases h
    · split at h
      · cases h; exact .inl ⟨rfl, rfl, rfl⟩
      · cases h
  | startWait =>
    simp only [readByteStep] at h
    split at h
    · cases h
    · split at h
      · next hm => cases h; exact .inr (.inl ⟨rfl, rfl, rfl, hm.1⟩)
      · cases h
  | startCheck =>
    simp only [readByteStep] at h
    split at h
    · cases h; exact .inr (.inr (.inl ⟨rfl, rfl, rfl⟩))
    · cases h
  | dataBit i d => cases h
  | stopCheck d =>
    simp only [readByteStep] at h
    split at h
    · cases h; exact .inr (.inr (.inr ⟨d, rfl, .inl rfl, rfl⟩))
    · cases h; exact .inr (.inr (.inr ⟨d, rfl, .inr rfl, rfl⟩))

/-- What a stored byte leads to (42_assembly.md R142, R143, R146). -/
theorem State.afterStore_cases (s : State) :
    (s.collect = .command ∧ s.rxCount = 258 ∧ s.afterStore = (s.addFail Config.failOverrun).complete) ∨
      (s.collect = .command ∧ s.rxCount ≠ 258 ∧ s.afterStore = s.readAt .enter) ∨
      (∃ n, s.collect = .payload n ∧ s.rxCount = n ∧ s.afterStore = s.complete) ∨
      (∃ n, s.collect = .payload n ∧ s.rxCount ≠ n ∧ s.afterStore = s.readAt .enter) := by
  unfold State.afterStore
  cases hc : s.collect with
  | command =>
    by_cases h : s.rxCount = 258
    · exact .inl ⟨rfl, h, if_pos h⟩
    · exact .inr (.inl ⟨rfl, h, if_neg h⟩)
  | payload n =>
    by_cases h : s.rxCount = n
    · exact .inr (.inr (.inl ⟨n, rfl, h, if_pos h⟩))
    · exact .inr (.inr (.inr ⟨n, rfl, h, if_neg h⟩))

/-- What a step of an assembly changes: the receive side, time, the sequencer, the pin's direction at session entry, and
FAIL_SCORE by an idle timeout or an overrun (42_assembly.md R149). -/
theorem State.assembleStep_cases (s : State) :
    s.assembleStep.currentAddress = s.currentAddress ∧ s.assembleStep.payloadBufferSize = s.payloadBufferSize ∧
      s.assembleStep.payloadExpected = s.payloadExpected ∧ s.assembleStep.eepromReq = s.eepromReq ∧
      s.assembleStep.pbuf = s.pbuf ∧ s.assembleStep.flash = s.flash ∧ s.assembleStep.flashCalls = s.flashCalls ∧
      s.assembleStep.peer = s.peer ∧ s.assembleStep.tx = s.tx ∧ s.assembleStep.afterSend = s.afterSend ∧
      s.assembleStep.lineOut = s.lineOut ∧
      (s.assembleStep.failScore = s.failScore ∨
        (s.rx = .reading .idleWait ∧ s.assembleStep.seq = .jumpTest ∧ s.assembleStep.failScore = 101) ∨
        ((∃ b, s.rx = .reading (.stopCheck b)) ∧ s.assembleStep.seq = .dispatch ∧ s.assembleStep.rxCount = 258 ∧
          s.assembleStep.failScore = s.failScore + 20)) := by
  unfold State.assembleStep
  split
  · exact ⟨rfl, rfl, rfl, rfl, rfl, rfl, rfl, rfl, rfl, rfl, rfl, .inl rfl⟩
  · exact ⟨rfl, rfl, rfl, rfl, rfl, rfl, rfl, rfl, rfl, rfl, rfl, .inl rfl⟩
  next p hp =>
  cases h : readByteStep p s with
  | still t =>
    obtain ⟨x, d, o, rfl, -, -⟩ := readByteStep_still h
    exact ⟨rfl, rfl, rfl, rfl, rfl, rfl, rfl, rfl, rfl, rfl, rfl, .inl rfl⟩
  | done r t =>
    rcases readByteStep_done h with ⟨rfl, rfl, rfl⟩ | ⟨rfl, rfl, rfl, -⟩ | ⟨rfl, rfl, rfl⟩ | ⟨d, rfl, rfl | rfl, rfl⟩
    · exact ⟨rfl, rfl, rfl, rfl, rfl, rfl, rfl, rfl, rfl, rfl, rfl, .inr (.inl ⟨hp, rfl, rfl⟩)⟩
    · simp only [assemblyReceive, State.assemblyOutcome, State.handleError]
      split <;> exact ⟨rfl, rfl, rfl, rfl, rfl, rfl, rfl, rfl, rfl, rfl, rfl, .inl rfl⟩
    · exact ⟨rfl, rfl, rfl, rfl, rfl, rfl, rfl, rfl, rfl, rfl, rfl, .inl rfl⟩
    · simp only [assemblyReceive, State.assemblyOutcome]
      rcases ((s.wait Config.timing.tBit).storeByte d).afterStore_cases with
        ⟨-, h2, e⟩ | ⟨-, -, e⟩ | ⟨n, -, -, e⟩ | ⟨n, -, -, e⟩ <;> rw [e]
      · exact ⟨rfl, rfl, rfl, rfl, rfl, rfl, rfl, rfl, rfl, rfl, rfl, .inr (.inr ⟨⟨d, hp⟩, rfl, h2, rfl⟩)⟩
      all_goals exact ⟨rfl, rfl, rfl, rfl, rfl, rfl, rfl, rfl, rfl, rfl, rfl, .inl rfl⟩
    · exact ⟨rfl, rfl, rfl, rfl, rfl, rfl, rfl, rfl, rfl, rfl, rfl, .inl rfl⟩

/-! ### The send side -/

/-- What is done when `Send` returns: nothing, the end of payload mode, or the count of an unknown command. -/
theorem State.carryOut_cases (s : State) :
    (s.afterSend = .nothing ∧ s.carryOut = s) ∨
      (s.afterSend = .leavePayloadMode ∧ s.carryOut = { s with payloadExpected := false, afterSend := .nothing }) ∨
      (s.afterSend = .countUnknown ∧ s.carryOut = { s with failScore := s.failScore + 1, afterSend := .nothing }) := by
  cases h : s.afterSend
  · exact .inl ⟨rfl, by cases s; cases h; rfl⟩
  · exact .inr (.inl ⟨rfl, by unfold State.carryOut; rw [h]; rfl⟩)
  · exact .inr (.inr ⟨rfl, by unfold State.carryOut; rw [h]; rfl⟩)

/-- What a step of `Send` changes: the pin, the place and time, or it is the last one (44_responses.md R200). -/
theorem State.replyStep_cases (s : State) :
    (∃ dir out tx d, s.replyStep = { s with dir := dir, lineOut := out, tx := tx, now := s.now + d }) ∨
      s.replyStep = s.finishReply := by
  unfold State.replyStep
  split
  · exact .inr rfl
  · exact .inl ⟨.tx, true, _, 52, rfl⟩
  · exact .inl ⟨s.dir, _, _, 52, rfl⟩
  · exact .inl ⟨s.dir, _, _, 52, rfl⟩
  · exact .inl ⟨s.dir, true, .enterRx, 0, rfl⟩
  · exact .inl ⟨s.dir, true, _, 52, rfl⟩
  · exact .inr rfl

/-! ### The cycle -/

/-- What the jump test does (42_assembly.md R148). -/
theorem State.jumpTest_cases (s : State) :
    (s.jumpRequested = true ∧ s.jumpTest = { s with seq := .handoff }) ∨
      (s.jumpRequested = false ∧ s.jumpTest = s.nextCycle) := by
  unfold State.jumpTest
  cases s.jumpRequested
  · exact .inr ⟨rfl, rfl⟩
  · exact .inl ⟨rfl, rfl⟩

/-- What HANDOFF does (60_exceptions.md R233). -/
theorem State.handoff_cases (s : State) :
    s.handoff = { s.drawn.elapse with transferred := true } ∨ s.handoff = (s.drawn.setFail 0).nextCycle := by
  unfold State.handoff
  cases Config.validatorTransfers s.draws
  · exact .inr rfl
  · exact .inl rfl

/-- Everything a step that gives a next state can be. -/
theorem step_cases {s t : State} (h : step s = .next t) :
    s.transferred = false ∧
      ((s.seq = .assemble ∧ t = s.assembleStep) ∨
        (s.seq = .dispatch ∧ ∃ i, s.fetch = .ok i ∧ exec i s = .next t) ∨
        (s.seq = .reply ∧ t = s.replyStep) ∨ (s.seq = .jumpTest ∧ t = s.jumpTest) ∨
        (s.seq = .handoff ∧ t = s.handoff)) := by
  unfold step at h
  split at h
  · cases h
  next hf =>
  refine ⟨by simpa using hf, ?_⟩
  split at h
  · next hs => cases h; exact .inl ⟨hs, rfl⟩
  · next hs =>
    refine .inr (.inl ⟨hs, ?_⟩)
    unfold dispatchStep at h
    split at h
    · next i hi => exact ⟨i, hi, h⟩
    · cases h
  · next hs => cases h; exact .inr (.inr (.inl ⟨hs, rfl⟩))
  · next hs => cases h; exact .inr (.inr (.inr (.inl ⟨hs, rfl⟩)))
  · next hs => cases h; exact .inr (.inr (.inr (.inr ⟨hs, rfl⟩)))

end Sys2Proof.Machine
end

