-- ==== Sys2Proof/Laws/Buffers.lean ====
section
/-!
SUPPORT. The buffers, read one byte at a time: each operation on RXBUF or PBUF has one lemma that says what every offset
holds after it.
-/

namespace Sys2Proof.Machine

/-- A cleared buffer reads 0x00 everywhere. -/
theorem cleared_getD (n k : Nat) : (Vector.replicate n (0 : Byte)).toList.getD k 0 = 0 := by
  rw [Vector.toList_replicate, List.getD_eq_getElem?_getD, List.getElem?_replicate]
  split <;> rfl

/-- A list cut and padded to a buffer's length holds the list and then zeros. -/
theorem rightpad_getD (n : Nat) (l : List Byte) (k : Nat) :
    ((l.take n).rightpad n 0).getD k 0 = if k < n then l.getD k 0 else 0 := by
  simp only [List.rightpad, List.getD_eq_getElem?_getD, List.getElem?_append, List.getElem?_replicate, List.length_take,
    List.getElem?_take]
  split <;> split <;> simp_all

/-- The payload buffer after an accepted payload (43_commands.md R162). -/
theorem payloadImage_getD (data : List Byte) (k : Nat) :
    (payloadImage data).toList.getD k 0 = if k < 256 then data.getD k 0 else 0 := rightpad_getD 256 data k

/-- The receive buffer that holds a frame. -/
theorem frameBuffer_getD (f : List Byte) (k : Nat) :
    (frameBuffer f).toList.getD k 0 = if k < 258 then f.getD k 0 else 0 := rightpad_getD 258 f k

/-- Storing a byte leaves every other offset. -/
theorem store_getD_other (v : Vector Byte 258) {n k : Nat} (b : Byte) (h : k ≠ n) :
    (v.setIfInBounds n b).toList.getD k 0 = v.toList.getD k 0 := by
  rw [List.getD_eq_getElem?_getD, List.getD_eq_getElem?_getD, Vector.toList_setIfInBounds, List.getElem?_set_ne h.symm]

/-- Storing a byte puts it at its offset. -/
theorem store_getD_same (v : Vector Byte 258) {n : Nat} (b : Byte) (h : n < 258) :
    (v.setIfInBounds n b).toList.getD n 0 = b := by
  rw [List.getD_eq_getElem?_getD, Vector.toList_setIfInBounds, List.getElem?_set_self (by simpa using h)]
  rfl

/-- The payload PROG_FLASH writes has at most 256 bytes. -/
theorem State.storedPayload_length (s : State) :
    s.storedPayload.length = min s.payloadBufferSize.toNat 256 := by
  simp [State.storedPayload]

end Sys2Proof.Machine
end

