-- ==== Sys2Proof/Laws/PerInstr.lean ====
section
/-!
SUPPORT. The statements made per instruction: how long the encoded frames are (30_encoding.md R72, R73).
-/

namespace Sys2Proof.Laws.FrameBounds

/-- The frame of a well-formed instruction has at least one byte and at most 258. -/
def Statement (i : Instr) : Prop := WellFormed i → 1 ≤ (encode i).length ∧ (encode i).length ≤ 258

theorem run (a1 a2 a3 : Byte) : Statement (.run a1 a2 a3) :=
  fun _ => ⟨Nat.le_add_left 1 _, by simp [encode]⟩

theorem progFlash (p1 crcLo crcHi : Byte) : Statement (.progFlash p1 crcLo crcHi) :=
  fun _ => ⟨Nat.le_add_left 1 _, by simp [encode]⟩

theorem eraseFlash (p1 crcLo crcHi : Byte) : Statement (.eraseFlash p1 crcLo crcHi) :=
  fun _ => ⟨Nat.le_add_left 1 _, by simp [encode]⟩

theorem readFlash (p1 crcLo crcHi : Byte) : Statement (.readFlash p1 crcLo crcHi) :=
  fun _ => ⟨Nat.le_add_left 1 _, by simp [encode]⟩

theorem readEeprom : Statement .readEeprom :=
  fun _ => ⟨Nat.le_add_left 1 _, by simp [encode]⟩

theorem keepAlive (p1 crcLo crcHi : Byte) : Statement (.keepAlive p1 crcLo crcHi) :=
  fun _ => ⟨Nat.le_add_left 1 _, by simp [encode]⟩

theorem setBuffer (x p2 p3 crcLo crcHi : Byte) : Statement (.setBuffer x p2 p3 crcLo crcHi) :=
  fun _ => ⟨Nat.le_add_left 1 _, by simp [encode]⟩

theorem setAddress (x p2 p3 crcLo crcHi : Byte) : Statement (.setAddress x p2 p3 crcLo crcHi) :=
  fun _ => ⟨Nat.le_add_left 1 _, by simp [encode]⟩

theorem unknown (code : Byte) : Statement (.unknown code) :=
  fun _ => ⟨Nat.le_add_left 1 _, by simp [encode]⟩

theorem rawPayload (data : List Byte) (crcLo crcHi : Byte) : Statement (.rawPayload data crcLo crcHi) := fun h => by
  have hl : data.length ≤ 256 := of_decide_eq_true h
  simp only [encode, List.length_append, List.length_cons, List.length_nil]
  omega

theorem deviceProbe (site : ProbeSite) : Statement (.deviceProbe site) := fun h => by
  have hs : site ∈ Config.probeSites := of_decide_eq_true h
  simp only [Config.probeSites, List.mem_cons, List.not_mem_nil, or_false] at hs
  rcases hs with rfl | rfl | rfl <;> decide

end Sys2Proof.Laws.FrameBounds
end

