-- ==== Sys2Proof/Laws/Runs.lean ====
section
/-!
SUPPORT. Runs of several steps, and what one step is in each state of the sequencer.
-/

namespace Sys2Proof.Machine

@[simp] theorem runSteps_zero (s : State) : runSteps 0 s = some s := rfl

/-- A run goes on after its first step. -/
theorem runSteps_succ {s t : State} (h : step s = .next t) (k : Nat) : runSteps (k + 1) s = runSteps k t := by
  simp only [runSteps, h]

/-- A run is a run of its first part and then of the rest. -/
theorem runSteps_add (m n : Nat) (s : State) : runSteps (m + n) s = (runSteps m s).bind (runSteps n) := by
  induction m generalizing s with
  | zero => rw [Nat.zero_add]; rfl
  | succ m ih =>
    rw [Nat.succ_add]
    cases h : step s with
    | next t => rw [Nat.succ_eq_add_one, runSteps_succ h, runSteps_succ h, ih]
    | fault f => simp [runSteps, h]
    | refused r => simp [runSteps, h]

/-- A step while a message is assembled. -/
theorem step_assemble {s : State} (h : s.transferred = false) (hs : s.seq = .assemble) :
    step s = .next s.assembleStep := by simp [step, h, hs]

/-- A step inside `read_byte`. -/
theorem step_reading {s : State} {p : ReadPhase} (h : ListensAt s p) :
    step s = .next (assemblyReceive (readByteStep p s)) := by
  obtain ⟨hs, -, hp, hf⟩ := h
  rw [step_assemble hf hs, State.assembleStep, hp]

/-- A step at a dispatch. -/
theorem step_dispatch {s : State} {i : Instr} (h : s.transferred = false) (hs : s.seq = .dispatch)
    (hi : s.fetch = .ok i) : step s = exec i s := by simp [step, h, hs, dispatchStep, hi]

/-- A step while a reply is sent. -/
theorem step_reply {s : State} (h : s.transferred = false) (hs : s.seq = .reply) :
    step s = .next s.replyStep := by simp [step, h, hs]

/-- A step at the jump test. -/
theorem step_jumpTest {s : State} (h : s.transferred = false) (hs : s.seq = .jumpTest) :
    step s = .next s.jumpTest := by simp [step, h, hs]

/-- A step at HANDOFF. -/
theorem step_handoff {s : State} (h : s.transferred = false) (hs : s.seq = .handoff) :
    step s = .next s.handoff := by simp [step, h, hs]

/-- The level the block sees while it listens. -/
theorem ListensAt.pinLevel {s : State} {p : ReadPhase} (h : ListensAt s p) : s.pinLevel = lineAt s s.now :=
  State.pinLevel_rx h.2.1

/-- The level the block sees after a wait while it listens. -/
theorem ListensAt.pinLevel_wait {s : State} {p : ReadPhase} (h : ListensAt s p) (d : Nat) :
    (s.wait d).pinLevel = lineAt s (s.now + d) := State.pinLevel_rx (s := s.wait d) h.2.1

end Sys2Proof.Machine
end

