-- ==== Sys2Proof/Tests/Slice0.lean ====
section
/-!
SUPPORT. Tests: ill-formed terms are refused, words written out from the encoding decode to their instructions, the
spec's vectors (95_test_vectors.md, named V-…) hold for one step, and the hypotheses of each obligation can be met.
-/

namespace Sys2Proof.Tests

open Sys2Proof.Machine

set_option maxRecDepth 8000

/-! ### Well-formedness -/

theorem test_unknown_code_below_range_refused : ¬ WellFormed (.unknown 0x04) := by decide

theorem test_unknown_code_above_range_refused : ¬ WellFormed (.unknown 0xFD) := by decide

theorem test_payload_of_257_bytes_refused : ¬ WellFormed (.rawPayload (List.replicate 257 0) 0 0) := by decide

theorem test_probe_at_no_site_refused : ¬ WellFormed (.deviceProbe ⟨16, 9, 8⟩) := by decide

/-! ### Decoding: bytes written out from 30_encoding.md sections 3 to 6 -/

theorem test_decode_run : decode .command [0x00, 0x01, 0x02, 0x03] = .ok (.run 0x01 0x02 0x03) := by decide

theorem test_decode_run_short : decode .command [0x00] = .ok (.run 0 0 0) := by decide

theorem test_decode_progFlash : decode .command [0x01, 0x01, 0xC0, 0x50] = .ok (.progFlash 0x01 0xC0 0x50) := by decide

theorem test_decode_eraseFlash : decode .command [0x02, 0x01, 0xC0, 0xA0] = .ok (.eraseFlash 0x01 0xC0 0xA0) := by decide

theorem test_decode_readFlash : decode .command [0x03, 0x04, 0x01, 0x33] = .ok (.readFlash 0x04 0x01 0x33) := by decide

theorem test_decode_readEeprom : decode .command [0x04] = .ok .readEeprom := by decide

theorem test_decode_unknown_first : decode .command [0x05] = .ok (.unknown 0x05) := by decide

theorem test_decode_unknown_last : decode .command [0xFC, 0x12, 0x34] = .ok (.unknown 0xFC) := by decide

theorem test_decode_keepAlive : decode .command [0xFD, 0x00, 0x40, 0x90] = .ok (.keepAlive 0x00 0x40 0x90) := by decide

theorem test_decode_setBuffer : decode .command [0xFE, 0x00, 0x02, 0x07, 0x71, 0x4A] =
    .ok (.setBuffer 0x00 0x02 0x07 0x71 0x4A) := by decide

/-- V-K19: the two bytes after the format are ignored. -/
theorem test_decode_setAddress_long : decode .command [0xFF, 0x00, 0x10, 0x00, 0x3D, 0xD4, 0x99, 0x98] =
    .ok (.setAddress 0x00 0x10 0x00 0x3D 0xD4) := by decide

/-- V-P3: in payload mode the bytes of a SET_ADDRESS are a payload. -/
theorem test_decode_rawPayload : decode (.payload 4) [0xFF, 0x00, 0x10, 0x00, 0x3D, 0xD4] =
    .ok (.rawPayload [0xFF, 0x00, 0x10, 0x00] 0x3D 0xD4) := by decide

/-- V-K21: the probe is taken before byte 0. -/
theorem test_decode_probe : decode .command
    [0xFF, 0x00, 0x10, 0x00, 0x3D, 0xD4, 0x00, 0x00, 0x0D, 0x42, 0x00, 0x00, 0x00, 0x00, 0x00, 0x00, 0x7D] =
    .ok (.deviceProbe ⟨16, 8, 9⟩) := by decide

/-- V-K22: without the marker it is no probe. -/
theorem test_decode_no_probe : decode .command
    [0x00, 0x00, 0x00, 0x00, 0x00, 0x00, 0x00, 0x00, 0x0D, 0x42, 0x00, 0x00, 0x00, 0x00, 0x00, 0x00] =
    .ok (.run 0 0 0) := by decide

/-- V-K23: the site at 20 (decision D24). -/
theorem test_decode_probe_at_20 : decode .command
    [0x00, 0x00, 0x00, 0x00, 0x00, 0x00, 0x00, 0x00, 0x00, 0x00, 0x00, 0x00, 0x0D, 0x42, 0x00, 0x00, 0x00, 0x00, 0x00,
     0x00, 0x7D] = .ok (.deviceProbe ⟨20, 12, 13⟩) := by decide

theorem test_decode_table_word : decodeTableWord 48 0xD43D001000FF = some (.setAddress 0x00 0x10 0x00 0x3D 0xD4) := by
  decide

theorem test_decode_refuses_no_bytes : decode .command [] = .error .emptyFrame := by decide

theorem test_decode_refuses_259_bytes : decode .command (List.replicate 259 0) = .error .overlongFrame := by decide

theorem test_decode_refuses_size_257 : decode (.payload 257) [0x00] = .error .payloadSizeIllegal := by decide

/-! ### CRC (V-C4, V-C8, V-C11) and characters (V-T1, V-T2) -/

theorem test_crc_of_01 : crc16 [0x01] = 0xC0C1 := by decide

theorem test_crc_check_value : crc16 [0x31, 0x32, 0x33, 0x34, 0x35, 0x36, 0x37, 0x38, 0x39] = 0xBB3D := by decide

theorem test_crc_bytes_low_first : crcBytes [0x11, 0x22, 0x33, 0x44] = [0xB1, 0xF5] := by decide

theorem test_cells_of_C1 : (List.range 10).map (charCell 0xC1) =
    [false, true, false, false, false, false, false, true, true, true] := by decide

theorem test_cells_of_55 : (List.range 10).map (charCell 0x55) =
    [false, true, false, true, false, true, false, true, false, true] := by decide

/-! ### Each instruction, run once -/

/-- The next state of an outcome. -/
def nextOf : Host.Outcome State Fault Refusal → Option State
  | .next t => some t
  | .fault _ => none
  | .refused _ => none

/-- The state after an instruction. -/
def after (i : Instr) (s : State := State.reset) : Option State := nextOf (exec i s)

/-- V-K1. -/
theorem test_run_sets_101 : (after (.run 0 0 0) { State.reset with failScore := 57 }).map (·.failScore) = some 101 := by
  decide

/-- V-K2. -/
theorem test_run_with_argument_does_nothing : (after (.run 0 0 1)).map (fun t => (t.failScore, t.seq)) =
    some (0, .jumpTest) := by decide

/-- V-K26. -/
theorem test_progFlash_bad_crc : (after (.progFlash 0x00 0x00 0x00)).map (fun t => (t.tx, t.flashCalls)) =
    some (.enterTx [0xC2], []) := by decide

/-- Every board's `APP_BASE` is at or below the last address. -/
theorem writable_last : writable 0xFFFFFFFF = true := by
  have h := Config.appBase.isLt
  exact decide_eq_true (BitVec.le_def.mpr (Nat.le_of_lt_succ h))

/-- The last address, with a payload of one byte, over a flash that holds `m`. -/
def progState (m : Memory) : State :=
  { State.reset with
    currentAddress := 0xFFFFFFFF, payloadBufferSize := 1, pbuf := payloadImage [0x11], flash := m }

/-- What PROG_FLASH does in that state. -/
theorem program_last (m : Memory) : (progState m).program =
    ((progState m).memWrite 0xFFFFFFFF [0x11]).2.send
      [if Config.flashWriteOk 0 then Config.ack else Config.nack] := by
  rcases (progState m).program_cases with ⟨-, e⟩ | ⟨hw, -⟩
  · rw [e]; rfl
  · rw [show (progState m).currentAddress = 0xFFFFFFFF from rfl, writable_last] at hw
    cases hw

/-- V-K4, at an address every board can write. -/
theorem test_progFlash_calls_the_port :
    (after (.progFlash 0x01 0xC0 0x50) (progState [])).map (·.flashCalls) = some [.write 0xFFFFFFFF [0x11]] := by
  have h : after (.progFlash 0x01 0xC0 0x50) (progState []) = some (progState []).program := by rfl
  rw [h, program_last]
  rfl

/-- V-K28: the CRC before the gate. -/
theorem test_eraseFlash_bad_crc : (after (.eraseFlash 0x01 0xC0 0xA1)).map (·.tx) = some (.enterTx [0xC2]) := by decide

/-- V-K29, at an address every board can write. -/
theorem test_eraseFlash_acknowledges : (after (.eraseFlash 0x00 0x01 0x60) (progState [])).map
    (fun t => (t.tx, t.flashCalls)) = some (.enterTx [0x30], []) := by
  have h : after (.eraseFlash 0x00 0x01 0x60) (progState []) =
      some (if writable 0xFFFFFFFF then (progState []).send [0x30]
        else (progState []).handleError .notWritable) := by rfl
  rw [h, writable_last]
  rfl

/-- V-K8. -/
theorem test_readFlash_one_byte : (after (.readFlash 0x01 0xC1 0x30)
    { State.reset with currentAddress := 0x08001000, flash := [(0x08001000, 0x11)] }).map (·.tx) =
    some (.enterTx [0x11, 0xC0, 0x0C, 0x30]) := by decide

/-- V-K9. -/
theorem test_readFlash_bad_crc : (after (.readFlash 0x04 0x01 0x34)).map (fun t => (t.tx, t.flashCalls)) =
    some (.enterTx [0xC2], []) := by decide

/-- V-K10. -/
theorem test_readEeprom_sets_flag : (after .readEeprom).map (fun t => (t.eepromReq, t.seq)) = some (true, .jumpTest) := by
  decide

/-- V-K11. -/
theorem test_keepAlive_nacks : (after (.keepAlive 0x00 0x40 0x90)).map (fun t => (t.tx, t.failScore)) =
    some (.enterTx [0xC1], 0) := by decide

/-- V-K12. -/
theorem test_keepAlive_bad_crc : (after (.keepAlive 0x00 0x40 0x91)).map (·.tx) = some (.enterTx [0xC2]) := by decide

/-- V-K13. -/
theorem test_setBuffer_256 : (after (.setBuffer 0x00 0x01 0x00 0x30 0x78)).map
    (fun t => (t.payloadBufferSize, t.payloadExpected)) = some (256, true) := by decide

/-- V-K14. -/
theorem test_setBuffer_byte3 : (after (.setBuffer 0x00 0x02 0x07 0x71 0x4A)).map
    (fun t => (t.payloadBufferSize, t.payloadExpected, t.seq)) = some (7, true, .jumpTest) := by decide

/-- V-K16, for every board. -/
theorem test_setAddress : (after (.setAddress 0x00 0x10 0x00 0x3D 0xD4)).map (fun t => (t.currentAddress, t.tx)) =
    some (Config.flashBase + (0x1000 <<< Config.addressShift.amount), .enterTx [0x30]) := by rfl

/-- P4, step 4. -/
theorem test_setAddress_bad_crc : (after (.setAddress 0x00 0x10 0x00 0x3D 0xD5)).map
    (fun t => (t.currentAddress, t.tx)) = some (0, .enterTx [0xC2]) := by decide

/-- V-K25: the NACK is begun, and the count comes after it (43_commands.md R177). -/
theorem test_unknown_nacks_first : (after (.unknown 0xFC)).map (fun t => (t.failScore, t.tx)) =
    some (0, .enterTx [0xC1]) := by decide

/-- When the NACK has been sent the code is counted, modulo 2^16 (decision D8). -/
theorem test_unknown_counts_after_reply :
    (serve (.unknown 0x05) { State.reset with failScore := 0xFFFF }).map (fun t => (t.failScore, t.seq)) =
    some (0, .jumpTest) := by decide +kernel

/-- V-P1: the buffer and the ACK; payload mode still lasts (43_commands.md R162). -/
theorem test_rawPayload_good : (after (.rawPayload [0xDE, 0xAD, 0xBE, 0xEF] 0x9B 0xE5)
    { State.reset with payloadBufferSize := 4, payloadExpected := true }).map
    (fun t => (t.pbuf.toList.take 5, t.payloadExpected, t.tx)) =
    some ([0xDE, 0xAD, 0xBE, 0xEF, 0x00], true, .enterTx [0x30]) := by decide

/-- V-P1, when the ACK has been sent. -/
theorem test_rawPayload_good_after_reply : (serve (.rawPayload [0xDE, 0xAD, 0xBE, 0xEF] 0x9B 0xE5)
    { State.reset with payloadBufferSize := 4, payloadExpected := true }).map
    (fun t => (t.pbuf.toList.take 5, t.payloadExpected, t.seq)) =
    some ([0xDE, 0xAD, 0xBE, 0xEF, 0x00], false, .jumpTest) := by decide +kernel

/-- V-P2. -/
theorem test_rawPayload_bad_crc : (after (.rawPayload [0x11, 0x22, 0x33, 0x44] 0xB1 0xF4)
    { State.reset with payloadBufferSize := 4, payloadExpected := true }).map
    (fun t => (t.payloadExpected, t.tx)) = some (true, .enterTx [0xC2]) := by decide

/-- V-R2. -/
theorem test_probe_answers : (after (.deviceProbe ⟨16, 8, 9⟩)).map (fun t => (t.failScore, t.tx)) =
    some (0, .enterTx Config.devInfo) := by rfl

/-- A word of the opcode table, placed and run by one step (V-K10). -/
theorem test_step_runs_placed_word : (nextOf (step (State.reset.withFetchWord 8 0x04))).map (·.eepromReq) = some true := by
  decide +kernel

/-! ### Witnesses: states and operands that meet the hypotheses of the obligations -/

/-! #### Encoding -/

theorem witness_DecodeEncodeRoundTrip :
    WellFormed (.unknown 0x05) ∧ WellFormed (.unknown 0xFC) ∧
      WellFormed (.rawPayload (List.replicate 256 0xFF) 0x40 0x54) ∧ WellFormed (.deviceProbe ⟨40, 32, 33⟩) := by decide

theorem witness_DecodedIsWellFormed : decode .command [0x05] = .ok (.unknown 0x05) ∧
    decode (.payload 0) [0x00, 0x00] = .ok (.rawPayload [] 0 0) := by decide

theorem witness_ZeroFillDecodesAlike : ([0x04] : List Byte) ≠ [] ∧ ([0x04] : List Byte).length + 257 ≤ 258 := by decide

/-- V-K21: the site at 16, although byte 0 is SET_ADDRESS's code. -/
theorem witness_SelectionOrderOfDecoder_probe_at_16 :
    let f : List Byte :=
      [0xFF, 0x00, 0x10, 0x00, 0x3D, 0xD4, 0x00, 0x00, 0x0D, 0x42, 0x00, 0x00, 0x00, 0x00, 0x00, 0x00, 0x7D]
    f ≠ [] ∧ f.length ≤ 258 ∧ 256 ≤ 256 ∧ f.getD 16 0 = 0x7D ∧ f.getD 8 0 = 13 ∧ f.getD 9 0 = 66 := by decide

/-- A frame with the marker and the tags at one place, and another byte everywhere else. -/
def probeAt (lead : Nat) : List Byte := List.replicate lead 0x05 ++ [0x0D, 0x42] ++ List.replicate 6 0x05 ++ [0x7D]

/-- V-K23: the other two sites, each without the ones before it. -/
theorem witness_SelectionOrderOfDecoder_probe_at_20_and_40 :
    ((probeAt 12).getD 20 0 = 0x7D ∧ (probeAt 12).getD 12 0 = 13 ∧ (probeAt 12).getD 13 0 = 66 ∧
      (probeAt 12).getD 16 0 ≠ 0x7D) ∧
    ((probeAt 32).getD 40 0 = 0x7D ∧ (probeAt 32).getD 32 0 = 13 ∧ (probeAt 32).getD 33 0 = 66 ∧
      (probeAt 32).getD 16 0 ≠ 0x7D ∧ (probeAt 32).getD 20 0 ≠ 0x7D) := by decide

/-- With no marker: the shortest frame, one with a tail after its format (V-K19), and an unknown code with a tail. -/
theorem witness_SelectionOrderOfDecoder_code :
    ∀ f ∈ ([[0x04], [0xFF, 0x00, 0x10, 0x00, 0x3D, 0xD4, 0x99, 0x98], [0xFC, 0x12, 0x34]] : List (List Byte)),
      f ≠ [] ∧ f.length ≤ 258 ∧ f.getD 16 0 ≠ 0x7D ∧ f.getD 20 0 ≠ 0x7D ∧ f.getD 40 0 ≠ 0x7D := by decide

theorem witness_ProbeNeedsSeventeenBytes :
    probeMatch (hostBytes .probe) = some ⟨16, 8, 9⟩ ∧ (hostBytes .probe).length = 17 := by decide

theorem witness_HostFramesDecodeWithGoodCrc :
    (1 ≤ 1 ∧ 1 ≤ 256) ∧ (1 ≤ 256 ∧ 256 ≤ 256) ∧ 0 ≤ 256 ∧ (List.replicate 256 (0xFF : Byte)).length ≤ 256 := by decide

theorem witness_FetchWordIsRunNext : decodeTableWord 8 0x04 = some .readEeprom ∧
    decodeTableWord 32 0x50C00101 = some (.progFlash 0x01 0xC0 0x50) := by decide

theorem witness_StepRunsDecodedInstruction : (State.reset.withFrame [0x04]).transferred = false ∧
    (State.reset.withFrame [0x04]).seq = .dispatch ∧
    decode (if (State.reset.withFrame [0x04]).payloadExpected
      then .payload (State.reset.withFrame [0x04]).payloadBufferSize.toNat else .command)
      (State.reset.withFrame [0x04]).rxbuf.toList = .ok .readEeprom := ⟨rfl, rfl, by decide +kernel⟩

/-! #### CRC -/

/-- V-C10, at the first bit of the last byte and the last bit of the first. -/
theorem witness_VerifyDetectsEverySingleBit : verify [0xDE, 0xAD, 0xBE, 0xEF] 0x9B 0xE5 = true ∧
    3 < ([0xDE, 0xAD, 0xBE, 0xEF] : List Byte).length ∧ 0 < ([0xDE, 0xAD, 0xBE, 0xEF] : List Byte).length ∧
    0 < 8 ∧ 7 < 8 := by decide

/-! #### The line -/

/-- The block listening at a place inside `read_byte`, with a peer's schedule. -/
def listening (p : ReadPhase) (peer : List (Nat × PeerDrive)) : State :=
  { State.reset with rx := .reading p, peer := peer }

/-- A peer that holds the line low from time 0. -/
def heldLow : List (Nat × PeerDrive) := [(0, .low)]

/-- A peer that drives the cells of a character from time 0. -/
def characterAt0 (b : Byte) : List (Nat × PeerDrive) :=
  (List.range 10).map fun k => (52 * k, if charCell b k then .high else .low)

theorem listening_listensAt (p : ReadPhase) (peer : List (Nat × PeerDrive)) : ListensAt (listening p peer) p :=
  ⟨rfl, rfl, rfl, rfl⟩

theorem listening_low (p : ReadPhase) (t : Nat) : lineAt (listening p heldLow) t = false := by
  simp [lineAt, listening, heldLow, peerAt]

theorem listening_high (p : ReadPhase) (t : Nat) : lineAt (listening p []) t = true := rfl

theorem witness_ReceiveLevelIsPeerOrPullUp :
    ((listening .enter []).dir = .rx ∧ (listening .enter []).peerDrive = .released) ∧
    ((listening .enter [(0, .high)]).dir = .rx ∧ (listening .enter [(0, .high)]).peerDrive = .high) ∧
    ((listening .enter heldLow).dir = .rx ∧ (listening .enter heldLow).peerDrive = .low) := by decide

theorem witness_LowLineTimesOutAfterTwentyMs : ListensAt (listening .enter heldLow) .enter ∧
    ∀ d, d ≤ 20001 → lineAt (listening .enter heldLow) ((listening .enter heldLow).now + d) = false :=
  ⟨listening_listensAt _ _, fun _ _ => listening_low _ _⟩

/-- The block after one byte of a message, waiting for the next. -/
def afterOneByte (c : Collect) : State := { listening .enter [] with rxCount := 1, msgRcvd := true, collect := c }

theorem witness_GapCompletesCommandMessage : ListensAt (afterOneByte .command) .enter ∧
    (afterOneByte .command).msgRcvd = true ∧ (afterOneByte .command).collect = .command ∧
    ∀ d, d ≤ 251 → lineAt (afterOneByte .command) ((afterOneByte .command).now + d) = true :=
  ⟨⟨rfl, rfl, rfl, rfl⟩, rfl, rfl, fun _ _ => rfl⟩

theorem witness_GapAbortsPayload : ListensAt (afterOneByte (.payload 6)) .enter ∧
    (afterOneByte (.payload 6)).msgRcvd = true ∧ (afterOneByte (.payload 6)).collect = .payload 6 ∧
    ∀ d, d ≤ 251 → lineAt (afterOneByte (.payload 6)) ((afterOneByte (.payload 6)).now + d) = true :=
  ⟨⟨rfl, rfl, rfl, rfl⟩, rfl, rfl, fun _ _ => rfl⟩

theorem witness_QuietLineWaitsForever : ListensAt (listening .startWait []) .startWait ∧
    (listening .startWait []).msgRcvd = false ∧
    ∀ d, d < 1000000 → lineAt (listening .startWait []) ((listening .startWait []).now + d) = true :=
  ⟨listening_listensAt _ _, rfl, fun _ _ => rfl⟩

theorem witness_CharacterOnLineIsReceived : ListensAt (listening .startWait (characterAt0 0x55)) .startWait ∧
    (listening .startWait (characterAt0 0x55)).rxCount < 258 ∧
    ∀ k d, k ≤ 9 → d < 52 → lineAt (listening .startWait (characterAt0 0x55))
      ((listening .startWait (characterAt0 0x55)).now + 52 * k + d) = charCell 0x55 k := by
  refine ⟨listening_listensAt _ _, by decide, fun k d hk hd => ?_⟩
  have h : ∀ k : Fin 10, ∀ d : Fin 52, lineAt (listening .startWait (characterAt0 0x55)) (0 + 52 * k + d) =
      charCell 0x55 k := by decide +kernel
  exact h ⟨k, Nat.lt_succ_of_le hk⟩ ⟨d, hd⟩

/-- V-T9. -/
theorem witness_MisframedCharacterAborts_stop : ListensAt (listening .startWait heldLow) .startWait ∧
    (∀ k d, k ≤ 8 → d < 52 →
      lineAt (listening .startWait heldLow) ((listening .startWait heldLow).now + 52 * k + d) = charCell 0x00 k) ∧
    lineAt (listening .startWait heldLow) ((listening .startWait heldLow).now + 494) = false := by
  refine ⟨listening_listensAt _ _, fun k d hk _ => ?_, listening_low _ _⟩
  rw [listening_low]
  have h : ∀ k : Fin 9, charCell 0x00 k = false := by decide
  exact (h ⟨k, Nat.lt_succ_of_le hk⟩).symm

/-- V-T10. -/
theorem witness_MisframedCharacterAborts_start : ListensAt (listening .startWait [(0, .low), (10, .high)]) .startWait ∧
    lineAt (listening .startWait [(0, .low), (10, .high)]) 0 = false ∧
    lineAt (listening .startWait [(0, .low), (10, .high)]) (0 + 26) = true :=
  ⟨listening_listensAt _ _, by decide, by decide⟩

theorem witness_FramingErrorAbortsSilently_start : ListensAt (listening .startCheck []) .startCheck ∧
    readByteStep .startCheck (listening .startCheck []) = .done .badStart ((listening .startCheck []).wait 26) ∧
    (listening .startCheck []).failScore.toNat ≤ 100 := ⟨listening_listensAt _ _, rfl, by decide⟩

/-- A stop check with the line low, at the highest score that asks for no jump. -/
def lowStop : State := { listening (.stopCheck 0x10) heldLow with failScore := 100 }

theorem witness_FramingErrorAbortsSilently_stop : ListensAt lowStop (.stopCheck 0x10) ∧
    readByteStep (.stopCheck 0x10) lowStop = .done .badStop (lowStop.wait 52) ∧ lowStop.failScore.toNat ≤ 100 :=
  ⟨⟨rfl, rfl, rfl, rfl⟩, rfl, by decide⟩

/-- V-T5, at its last poll. -/
def idleTooLong : State := { listening .idleWait heldLow with now := 20001 }

theorem witness_IdleTimeoutSetsTheSentinel : ListensAt idleTooLong .idleWait ∧
    readByteStep .idleWait idleTooLong = .done .idleTimeout idleTooLong := ⟨⟨rfl, rfl, rfl, rfl⟩, rfl⟩

/-- The block about to send two bytes (V-T4). -/
def replying : State := { State.reset with seq := .reply, rx := .clear, tx := .enterTx [0x30, 0xC1] }

theorem witness_ReplyTakesTenCellsPerByte (a : AfterSend) :
    ({ replying with afterSend := a } : State).seq = .reply ∧
    ({ replying with afterSend := a } : State).transferred = false ∧
    ({ replying with afterSend := a } : State).tx = .enterTx [0x30, 0xC1] ∧
    ({ replying with afterSend := a } : State).afterSend = a ∧ ([0x30, 0xC1] : List Byte) ≠ [] :=
  ⟨rfl, rfl, rfl, rfl, by decide⟩

theorem witness_ReplyDrivesEveryCell : replying.seq = .reply ∧ replying.transferred = false ∧
    replying.tx = .enterTx [0x30, 0xC1] ∧ ([0x30, 0xC1] : List Byte)[0]? = some 0x30 ∧
    ([0x30, 0xC1] : List Byte)[1]? = some 0xC1 ∧ 0 ≤ 9 ∧ 9 ≤ 9 := by decide

/-! #### Assembly -/

theorem witness_AssemblyStartsCleared : ({ State.reset with rx := .clear } : State).seq = .assemble ∧
    ({ State.reset with rx := .clear } : State).transferred = false ∧
    ({ State.reset with rx := .clear } : State).rx = .clear := ⟨rfl, rfl, rfl⟩

/-- The block before the stop sample of a byte, after `n` bytes. -/
def beforeStop (n : Nat) (c : Collect) : State :=
  { listening (.stopCheck 0x05) [] with rxCount := n, msgRcvd := true, collect := c }

/-- At the byte that fills the cap, at the one before it and at the first (V-A4). -/
theorem witness_CommandByteIsStoredOrOverruns (n : Fin 258) : ListensAt (beforeStop n .command) (.stopCheck 0x05) ∧
    (beforeStop n .command).collect = .command ∧ (beforeStop n .command).rxCount = n ∧
    (beforeStop n .command).rxCount < 258 ∧
    lineAt (beforeStop n .command) ((beforeStop n .command).now + 52) = true :=
  ⟨⟨rfl, rfl, rfl, rfl⟩, rfl, rfl, n.isLt, rfl⟩

/-- V-A7, at the sixth byte and at the fifth. -/
theorem witness_PayloadEndsByCount (n : Fin 6) : ListensAt (beforeStop n (.payload 6)) (.stopCheck 0x05) ∧
    (beforeStop n (.payload 6)).collect = .payload 6 ∧ 6 ≤ 258 ∧ (beforeStop n (.payload 6)).rxCount < 6 ∧
    lineAt (beforeStop n (.payload 6)) ((beforeStop n (.payload 6)).now + 52) = true :=
  ⟨⟨rfl, rfl, rfl, rfl⟩, rfl, by decide, n.isLt, rfl⟩

/-! #### Commands -/

theorem witness_ProgFlashWritesThePayload : verify [0x01, 0x01] 0xC0 0x50 = true ∧
    writable (progState []).currentAddress = true ∧ (progState []).flash.wf :=
  ⟨by decide, writable_last, State.reset_wf⟩

theorem witness_GateDecidesProgFlash : verify [0x01, 0x01] 0xC0 0x50 = true := by decide

theorem witness_EraseFlashOnlyAcknowledges : verify [0x02, 0x01] 0xC0 0xA0 = true := by decide

theorem witness_ReadFlashAnswersTheBytes :
    verify [0x03, 0x00] 0x00 0xF0 = true ∧ verify [0x03, 0x01] 0xC1 0x30 = true ∧
      verify [0x03, 0x04] 0x01 0x34 = false := by decide

theorem witness_UnknownCommandCounts : State.reset.transferred = false := rfl

theorem witness_GoodPayloadIsCaptured : State.reset.transferred = false ∧
    (([] : List Byte).length ≤ 256 ∧ verify [] 0 0 = true) ∧
    (List.replicate 256 (0xFF : Byte)).length ≤ 256 ∧ verify (List.replicate 256 0xFF) 0x40 0x54 = true := by
  decide +kernel

theorem witness_BadCrcMutatesNothing :
    (crcSpan (.keepAlive 0x00 0x40 0x91) = some ([0xFD, 0x00], 0x40, 0x91) ∧ verify [0xFD, 0x00] 0x40 0x91 = false) ∧
    (crcSpan (.rawPayload [] 0x00 0x01) = some ([], 0x00, 0x01) ∧ verify [] 0x00 0x01 = false) := by decide

/-! #### The jump -/

/-- The block at the jump test with a score. -/
def atJumpTest (k : U16) : State := { State.reset with seq := .jumpTest, rx := .clear, failScore := k }

/-- The block at HANDOFF. -/
def atHandoff (b : Bool) : State :=
  { State.reset with seq := .handoff, rx := .clear, failScore := 101, transferred := b }

theorem witness_JumpTestIsAboveOneHundred (k : U16) : (atJumpTest k).seq = .jumpTest ∧
    (atJumpTest k).transferred = false := ⟨rfl, rfl⟩

theorem witness_HandoffTransfersOrRefuses : (atHandoff false).seq = .handoff ∧ (atHandoff false).transferred = false :=
  ⟨rfl, rfl⟩

theorem witness_HundredAndFirstUnknownRequestsJump : State.reset.failScore = 0 ∧ State.reset.transferred = false ∧
    (List.replicate 100 (0x05 : Byte)).length < 2 ^ 16 ∧ (List.replicate 101 (0x05 : Byte)).length < 2 ^ 16 := by decide

/-! #### The machine as a whole -/

/-- The jump test's state meets the invariant, also at the score where it is about to request the jump. -/
theorem atJumpTest_inv (k : U16) : (atJumpTest k).Inv where
  size_le := Nat.zero_le _
  count_le := Nat.zero_le _
  rcvd_iff := rfl
  rxbuf_tail k _ := cleared_getD 258 k
  pbuf_tail _ k _ := cleared_getD 256 k
  flash_wf := State.reset_wf
  timer_le := Nat.le_refl _
  seq_ok := ⟨rfl, rfl, rfl, rfl⟩
  afterSend_reply _ := rfl
  afterSend_mode h := nomatch h
  transferred_handoff h := nomatch h

/-- HANDOFF's state meets it too, before and after the transfer. -/
theorem atHandoff_inv (b : Bool) : (atHandoff b).Inv where
  size_le := Nat.zero_le _
  count_le := Nat.zero_le _
  rcvd_iff := rfl
  rxbuf_tail k _ := cleared_getD 258 k
  pbuf_tail _ k _ := cleared_getD 256 k
  flash_wf := State.reset_wf
  timer_le := Nat.le_refl _
  seq_ok := ⟨rfl, rfl, rfl, rfl, rfl⟩
  afterSend_reply _ := rfl
  afterSend_mode h := nomatch h
  transferred_handoff _ := rfl

theorem witness_StepKeepsTheInvariant (k : U16) : (atJumpTest k).Inv ∧ step (atJumpTest k) = .next (atJumpTest k).jumpTest :=
  ⟨atJumpTest_inv k, step_jumpTest rfl rfl⟩

theorem witness_OnlyTransferEndsTheRun : (atHandoff true).Inv ∧ step (atHandoff true) = .fault .operationEnded :=
  ⟨atHandoff_inv true, rfl⟩

/-- PROG_FLASH about to be dispatched at the last address, over a flash that holds `m`. -/
def progDispatch (m : Memory) : State := (progState m).withFrame [0x01, 0x01, 0xC0, 0x50]

/-- What is stored then, whether the write succeeds or not. -/
def storedThere : Byte := (storedBytes 0 (Config.flashWriteOk 0) [0x11]).getD 0 0

theorem storedThere_eq : storedBytes 0 (Config.flashWriteOk 0) [0x11] = [storedThere] := by
  unfold storedThere storedBytes
  cases Config.flashWriteOk 0 <;> rfl

/-- A flash whose last byte differs from what will be stored. -/
def otherFlash : Memory := [(0xFFFFFFFF, storedThere + 1)]

theorem progDispatch_fetch (m : Memory) : (progDispatch m).fetch = .ok (.progFlash 0x01 0xC0 0x50) := by
  have h : (progDispatch []).fetch = .ok (.progFlash 0x01 0xC0 0x50) := by decide +kernel
  exact h

theorem progDispatch_step (m : Memory) : step (progDispatch m) =
    .next (((progDispatch m).memWrite 0xFFFFFFFF [0x11]).2.send
      [if Config.flashWriteOk 0 then Config.ack else Config.nack]) := by
  rw [step_dispatch rfl rfl (progDispatch_fetch m)]
  have h : exec (.progFlash 0x01 0xC0 0x50) (progDispatch m) = .next (progDispatch m).program := by rfl
  rw [h]
  rcases (progDispatch m).program_cases with ⟨-, e⟩ | ⟨hw, -⟩
  · rw [e]; rfl
  · rw [show (progDispatch m).currentAddress = 0xFFFFFFFF from rfl, writable_last] at hw
    cases hw

/-- At the last address the write just fits. -/
theorem witness_BootRegionIsNeverWritten : (∃ t, step (progDispatch []) = .next t) ∧
    (progDispatch []).currentAddress.toNat + (progDispatch []).payloadBufferSize.toNat = 2 ^ 32 :=
  ⟨⟨_, progDispatch_step []⟩, rfl⟩

theorem witness_FlashChangesOnlyByProgFlash : ∃ t, step (progDispatch otherFlash) = .next t ∧
    t.flash.read 0xFFFFFFFF ≠ (progDispatch otherFlash).flash.read 0xFFFFFFFF := by
  refine ⟨_, progDispatch_step otherFlash, ?_⟩
  rw [State.memWrite_eq]
  show (Memory.writeFrom 0xFFFFFFFF 0 (storedBytes 0 (Config.flashWriteOk 0) [0x11]) otherFlash).read 0xFFFFFFFF ≠
    otherFlash.read 0xFFFFFFFF
  rw [storedThere_eq]
  unfold otherFlash
  generalize storedThere = v
  have h : (Memory.writeFrom 0xFFFFFFFF 0 [v] [(0xFFFFFFFF, v + 1)]).read 0xFFFFFFFF = v := by
    simp only [Memory.writeFrom, show flashAddress 0xFFFFFFFF 0 = 0xFFFFFFFF from rfl, Memory.write, Nat.lt_irrefl,
      if_false, if_true]
    split
    · next hv => rw [Memory.read_nil, hv]
    · simp
  rw [h]
  simp

theorem witness_FlashReadAfterWrite : Memory.wf [] ∧ ([0x11, 0x22, 0x33] : List Byte).length ≤ 256 :=
  ⟨State.reset_wf, by decide⟩

/-- What a field is after a step that is known to give a next state. -/
theorem next_of {α : Type} {o : Host.Outcome State Fault Refusal} {f : State → α} {v : α}
    (h : (nextOf o).map f = some v) : ∃ t, o = .next t ∧ f t = v := by
  cases o with
  | next t => exact ⟨t, rfl, Option.some.inj h⟩
  | fault e => cases h
  | refused r => cases h

/-- A state whose address is not the one SET_ADDRESS of offset 0x1000 gives, at its dispatch. -/
def addressDispatch : State :=
  { State.reset with currentAddress := targetAddress 0x10 0x00 + 1 }.withFrame [0xFF, 0x00, 0x10, 0x00, 0x3D, 0xD4]

theorem witness_RegistersHaveOneWriter_address : ∃ t, step addressDispatch = .next t ∧
    t.currentAddress ≠ addressDispatch.currentAddress := by
  have hf : addressDispatch.fetch = .ok (.setAddress 0x00 0x10 0x00 0x3D 0xD4) := by decide +kernel
  refine ⟨_, step_dispatch rfl rfl hf, ?_⟩
  show targetAddress 0x10 0x00 ≠ targetAddress 0x10 0x00 + 1
  generalize targetAddress 0x10 0x00 = a
  simp

theorem witness_RegistersHaveOneWriter_size :
    ∃ t, step (State.reset.withFrame [0xFE, 0x00, 0x02, 0x07, 0x71, 0x4A]) = .next t ∧ t.payloadBufferSize = 7 :=
  next_of (by decide +kernel)

theorem witness_RegistersHaveOneWriter_flag :
    ∃ t, step (State.reset.withFrame [0x04]) = .next t ∧ t.eepromReq = true := next_of (by decide +kernel)

/-- V-P1: a good payload about to be dispatched. -/
def payloadDispatch : State :=
  { State.reset.withFrame [0xDE, 0xAD, 0xBE, 0xEF, 0x9B, 0xE5] with payloadBufferSize := 4, payloadExpected := true }

theorem witness_PayloadModeIsSticky_capture : ∃ t, step payloadDispatch = .next t ∧
    (t.afterSend, t.pbuf.toList.getD 0 0) = (.leavePayloadMode, 0xDE) := next_of (by decide +kernel)

/-- `Send` about to return, with something to be done after it. -/
def atReplyEnd (a : AfterSend) : State :=
  { State.reset with seq := .reply, rx := .clear, tx := .enterRx, dir := .tx, payloadExpected := true, afterSend := a }

theorem witness_PayloadModeIsSticky_leave : (atReplyEnd .leavePayloadMode).payloadExpected = true ∧
    ∃ t, step (atReplyEnd .leavePayloadMode) = .next t ∧ t.payloadExpected = false := ⟨rfl, next_of (by decide)⟩

theorem witness_PayloadModeIsSticky_enter :
    (State.reset.withFrame [0xFE, 0x00, 0x02, 0x07, 0x71, 0x4A]).payloadExpected = false ∧
    ∃ t, step (State.reset.withFrame [0xFE, 0x00, 0x02, 0x07, 0x71, 0x4A]) = .next t ∧ t.payloadExpected = true :=
  ⟨rfl, next_of (by decide +kernel)⟩

theorem witness_FailScoreChangesOnlyByListedEvents_unknown :
    ∃ t, step (atReplyEnd .countUnknown) = .next t ∧ t.failScore = 1 := next_of (by decide)

theorem witness_FailScoreChangesOnlyByListedEvents_nack :
    ∃ t, step (State.reset.withFrame [0xFC]) = .next t ∧ t.afterSend = .countUnknown := next_of (by decide +kernel)

theorem witness_FailScoreChangesOnlyByListedEvents_run :
    ∃ t, step (State.reset.withFrame [0x00]) = .next t ∧ t.failScore = 101 := next_of (by decide +kernel)

theorem witness_FailScoreChangesOnlyByListedEvents_idle :
    ∃ t, step idleTooLong = .next t ∧ t.failScore = 101 := next_of (by decide)

theorem witness_FailScoreChangesOnlyByListedEvents_overrun :
    ∃ t, step (beforeStop 257 .command) = .next t ∧ t.failScore = 20 := next_of (by decide)

/-- The state about to send two bytes meets the invariant. -/
theorem replying_inv : replying.Inv where
  size_le := Nat.zero_le _
  count_le := Nat.zero_le _
  rcvd_iff := rfl
  rxbuf_tail k _ := cleared_getD 258 k
  pbuf_tail _ k _ := cleared_getD 256 k
  flash_wf := State.reset_wf
  timer_le := Nat.le_refl _
  seq_ok := ⟨rfl, by decide, by decide, rfl, rfl⟩
  afterSend_reply _ := rfl
  afterSend_mode h := nomatch h
  transferred_handoff h := nomatch h

theorem witness_TransmitsOnlyInReplyToAMessage_drive : replying.Inv ∧ ∃ t, step replying = .next t ∧ t.dir = .tx :=
  ⟨replying_inv, next_of (by decide)⟩

theorem witness_TransmitsOnlyInReplyToAMessage_reply :
    ∃ t, step (State.reset.withFrame [0xFC]) = .next t ∧ t.seq = .reply := next_of (by decide +kernel)

theorem witness_TimeAdvancesAndPeerIsInput : ∃ t, step replying = .next t ∧ t.now = 52 := next_of (by decide)

end Sys2Proof.Tests
end

section
/-!
The CRC-16 (40_crc.md). One bit through the register is injective in the register, because the polynomial's top bit keeps
the bit shifted out; and the two values of a data bit leave different registers. A fold of such steps keeps a difference
once made, so one altered bit changes the CRC of its byte, and one altered byte the CRC of the sequence.
-/

namespace Sys2Proof.Machine

/-! ### Folds of injective steps -/

/-- A fold whose steps are injective in the accumulator is injective in it. -/
theorem foldl_injective {α β : Type} {f : α → β → α} (hinj : ∀ b, Function.Injective (f · b)) (l : List β) :
    Function.Injective (l.foldl f ·) := by
  induction l with
  | nil => exact Function.injective_id
  | cons b l ih => exact ih.comp (hinj b)

/-- If moreover altering an element alters its step, altering any one element of the list alters the fold. -/
theorem foldl_modify_ne {α β : Type} {f : α → β → α} {g : β → β} (hinj : ∀ b, Function.Injective (f · b))
    (hne : ∀ a b, f a (g b) ≠ f a b) (l : List β) (k : Nat) (hk : k < l.length) (a : α) :
    (l.modify k g).foldl f a ≠ l.foldl f a := by
  induction l generalizing k a with
  | nil => exact absurd hk (Nat.not_lt_zero k)
  | cons b l ih =>
    cases k with
    | zero => exact fun h => hne a b (foldl_injective hinj l h)
    | succ k => exact ih k (Nat.lt_of_succ_lt_succ hk) (f a b)

/-! ### One bit -/

/-- The top bit of the register after a step tells whether the polynomial was xored in (R100). -/
theorem crcBit_msb (c : U16) (d : Bool) : (crcBit c d).msb = (c.getLsbD 0 != d) := by
  unfold crcBit
  split
  · next h => rw [h, BitVec.msb_xor, BitVec.msb_ushiftRight]; rfl
  · next h => rw [Bool.eq_false_iff.2 h, BitVec.msb_ushiftRight]; rfl

/-- The top bit gives back the bit shifted out, and the rest the other fifteen. -/
theorem crcBit_injective (d : Bool) : Function.Injective (crcBit · d) := by
  intro c c' (h : crcBit c d = crcBit c' d)
  have hout : c.getLsbD 0 = c'.getLsbD 0 := by
    have hmsb := congrArg BitVec.msb h
    rwa [crcBit_msb, crcBit_msb, Bool.bne_left_inj] at hmsb
  have hshift : c >>> 1 = c' >>> 1 := by
    simp only [crcBit, hout] at h
    split at h
    · exact (BitVec.xor_left_inj _).1 h
    · exact h
  refine BitVec.eq_of_getLsbD_eq fun i _ => ?_
  cases i with
  | zero => exact hout
  | succ i => simpa only [BitVec.getLsbD_ushiftRight, Nat.add_comm 1 i] using congrArg (BitVec.getLsbD · i) hshift

/-- The two values of a data bit leave registers that differ in the top bit. -/
theorem crcBit_not_ne (c : U16) (d : Bool) : crcBit c (!d) ≠ crcBit c d := by
  intro h
  have hmsb := congrArg BitVec.msb h
  rw [crcBit_msb, crcBit_msb, Bool.bne_right_inj] at hmsb
  exact Bool.not_ne_self d hmsb

/-! ### One byte -/

/-- The bits of a byte in the order they go through the register, "LSB-first" (R100). -/
def bitsOf (d : Byte) : List Bool := (List.range 8).map d.getLsbD

theorem crcByte_eq_foldl_bitsOf (c : U16) (d : Byte) : crcByte c d = (bitsOf d).foldl crcBit c := rfl

@[simp] theorem bitsOf_length (d : Byte) : (bitsOf d).length = 8 := rfl

@[simp] theorem bitsOf_getElem (d : Byte) (j : Nat) (hj : j < (bitsOf d).length) : (bitsOf d)[j] = d.getLsbD j := by
  simp only [bitsOf, List.getElem_map, List.getElem_range]

/-- Flipping bit `i` of a byte negates that bit and leaves the others. -/
theorem getLsbD_flip (d : Byte) {i : Nat} (hi : i < 8) (j : Nat) :
    (d ^^^ (1#8 <<< i)).getLsbD j = if i = j then !d.getLsbD j else d.getLsbD j := by
  rw [← BitVec.twoPow_eq, BitVec.getLsbD_xor, BitVec.getLsbD_twoPow]
  split
  · next h => subst h; simp [hi]
  · next h => simp [h]

theorem flip_ne (d : Byte) {i : Nat} (hi : i < 8) : d ^^^ (1#8 <<< i) ≠ d := by
  intro h
  have hbit := getLsbD_flip d hi i
  rw [h, if_pos rfl] at hbit
  exact Bool.not_ne_self _ hbit.symm

theorem bitsOf_flip (d : Byte) {i : Nat} (hi : i < 8) : bitsOf (d ^^^ (1#8 <<< i)) = (bitsOf d).modify i (!·) := by
  refine List.ext_getElem (by simp) fun j _ _ => ?_
  simp only [bitsOf_getElem, List.getElem_modify, getLsbD_flip d hi]

theorem crcByte_injective (d : Byte) : Function.Injective (crcByte · d) :=
  foldl_injective crcBit_injective (bitsOf d)

/-- Flipping one bit of a byte changes what the byte leaves in the register. -/
theorem crcByte_flip_ne {i : Nat} (hi : i < 8) (c : U16) (d : Byte) : crcByte c (d ^^^ (1#8 <<< i)) ≠ crcByte c d := by
  rw [crcByte_eq_foldl_bitsOf, bitsOf_flip d hi]
  exact foldl_modify_ne crcBit_injective crcBit_not_ne (bitsOf d) i hi c

/-! ### A byte sequence -/

theorem crc16_nil : crc16 [] = 0 := rfl

/-- Flipping one bit of one byte changes the CRC of the sequence. -/
theorem crc16_flipBit_ne (s : List Byte) (k i : Nat) (hk : k < s.length) (hi : i < 8) :
    crc16 (flipBit s k i) ≠ crc16 s :=
  foldl_modify_ne crcByte_injective (crcByte_flip_ne hi) s k hk 0

/-! ### `verify` -/

theorem verify_iff (s : List Byte) (lo hi : Byte) :
    verify s lo hi = true ↔ lo = crcLow (crc16 s) ∧ hi = crcHigh (crc16 s) := by
  simp only [verify, Bool.and_eq_true, beq_iff_eq, @eq_comm _ lo, @eq_comm _ hi]

theorem crcHigh_append_crcLow (c : U16) : crcHigh c ++ crcLow c = c :=
  have happend : c.extractLsb' 8 8 ++ c.extractLsb' 0 8 = c.extractLsb' 0 16 :=
    BitVec.extractLsb'_append_extractLsb'_eq_extractLsb' rfl
  happend.trans BitVec.extractLsb'_eq_self

/-- A CRC is determined by its two bytes. -/
theorem eq_of_crcLow_crcHigh {c c' : U16} (hlow : crcLow c = crcLow c') (hhigh : crcHigh c = crcHigh c') : c = c' := by
  rw [← crcHigh_append_crcLow c, ← crcHigh_append_crcLow c', hlow, hhigh]

/-- Two bytes are the right ones for one CRC only. -/
theorem crc16_eq_of_verify {s s' : List Byte} {lo hi : Byte} (h : verify s lo hi = true) (h' : verify s' lo hi = true) :
    crc16 s = crc16 s' := by
  obtain ⟨hlow, hhigh⟩ := (verify_iff s lo hi).1 h
  obtain ⟨hlow', hhigh'⟩ := (verify_iff s' lo hi).1 h'
  exact eq_of_crcLow_crcHigh (hlow.symm.trans hlow') (hhigh.symm.trans hhigh')

/-- Only one pair of bytes is right for a sequence. -/
theorem verify_bytes_unique {s : List Byte} {lo hi lo' hi' : Byte} (h : verify s lo hi = true)
    (h' : verify s lo' hi' = true) : lo = lo' ∧ hi = hi' := by
  obtain ⟨hlow, hhigh⟩ := (verify_iff s lo hi).1 h
  obtain ⟨hlow', hhigh'⟩ := (verify_iff s lo' hi').1 h'
  exact ⟨hlow.trans hlow'.symm, hhigh.trans hhigh'.symm⟩

/-! ### The obligations -/

/-- Settles O9. -/
theorem crcOfEmptyIsZero : Obligations.CrcOfEmptyIsZero := crc16_nil

/-- Settles O12: altered data has another CRC, and the data's CRC is right for one pair of bytes only. -/
theorem verifyDetectsEverySingleBit : Obligations.VerifyDetectsEverySingleBit := by
  refine ⟨fun s lo hi => ?_, fun s k i lo hi hk hlt hgood => ⟨?_, ?_, ?_⟩⟩
  · simp only [verify_iff, crcBytes, List.cons.injEq, and_true]
  · exact Bool.eq_false_iff.2 fun h => crc16_flipBit_ne s k i hk hlt (crc16_eq_of_verify h hgood)
  · exact Bool.eq_false_iff.2 fun h => flip_ne lo hlt (verify_bytes_unique h hgood).1
  · exact Bool.eq_false_iff.2 fun h => flip_ne hi hlt (verify_bytes_unique h hgood).2

end Sys2Proof.Machine
end

section
/-!
Two ends of a message cycle (42_assembly.md): the idle timeout, which aborts an assembly and makes the jump requested
(R145), and the jump test (R148).
-/

namespace Sys2Proof.Machine

/-- A step that leaves the flash and the log of port calls as they are keeps the flash. -/
theorem FlashKept.of_eq {s t : State} (hflash : t.flash = s.flash) (hcalls : t.flashCalls = s.flashCalls) :
    FlashKept s t :=
  ⟨fun a => congrArg (·.read a) hflash, hcalls⟩

/-! ### The idle timeout -/

/-- `read_byte` gives IdleTimeout only from the wait for an idle line, at a poll that changes nothing (R113). -/
theorem readByteStep_idleTimeout {p : ReadPhase} {s t : State} (h : readByteStep p s = .done .idleTimeout t) :
    p = .idleWait ∧ t = s := by
  rcases readByteStep_done h with ⟨hp, -, ht⟩ | ⟨-, hr, -⟩ | ⟨-, hr, -⟩ | ⟨d, -, hr | hr, -⟩
  · exact ⟨hp, ht⟩
  all_goals cases hr

/-- The step in which `read_byte` gives IdleTimeout: cause E1 (60_exceptions.md R220). -/
theorem step_idleTimeout {s u : State} {p : ReadPhase} (hl : ListensAt s p)
    (h : readByteStep p s = .done .idleTimeout u) : step s = .next (s.setFail 101).abort := by
  obtain ⟨-, rfl⟩ := readByteStep_idleTimeout h
  rw [step_reading hl, h]
  rfl

/-- Settles O22: the step is E1's action, and that sets one register and goes to the jump test. -/
theorem idleTimeoutSetsTheSentinel : Obligations.IdleTimeoutSetsTheSentinel := by
  intro s u p hl h
  exact ⟨(s.setFail 101).abort, step_idleTimeout hl h, rfl, rfl, rfl, rfl, rfl, .of_eq rfl rfl⟩

/-! ### The jump test -/

/-- The jump is requested exactly when `FAIL_SCORE`, unsigned, is above 100. -/
theorem State.jumpRequested_iff (s : State) : s.jumpRequested = true ↔ 100 < s.failScore.toNat :=
  decide_eq_true_iff.trans BitVec.lt_def

/-- Settles O45: the two branches of the jump test are the two sides of the bound. -/
theorem jumpTestIsAboveOneHundred : Obligations.JumpTestIsAboveOneHundred := by
  intro s hs hf
  refine ⟨s.jumpTest, step_jumpTest hf hs, ?_⟩
  rcases s.jumpTest_cases with ⟨hj, e⟩ | ⟨hj, e⟩ <;> rw [e]
  · rw [if_pos (s.jumpRequested_iff.1 hj)]
    exact ⟨rfl, .of_eq rfl rfl, rfl⟩
  · rw [if_neg (mt s.jumpRequested_iff.2 (Bool.eq_false_iff.1 hj))]
    exact ⟨rfl, .of_eq rfl rfl, rfl, rfl⟩

end Sys2Proof.Machine
end

section
/-!
The three CRC-checked commands of the block's setup (43_commands.md): KEEP_ALIVE (R174), SET_BUFFER (R175) and
SET_ADDRESS (R176), with their operand values as numbers (30_encoding.md R81).
-/

namespace Sys2Proof.Machine

/-! ### The operand values -/

theorem bufferSize_eq (p2 p3 : Byte) : bufferSize p2 p3 = if p2 = 1 then 256 else BitVec.ofNat 16 p3.toNat := by
  rw [BitVec.ofNat_toNat]
  rfl

/-- Shifting a number's word left is the word of the shifted number. -/
theorem ofNat_shiftLeft (w n k : Nat) : BitVec.ofNat w n <<< k = BitVec.ofNat w (n <<< k) :=
  BitVec.eq_of_toNat_eq (by simp [Nat.shiftLeft_eq])

/-- The two bytes of the offset do not overlap, so joining them is adding them. -/
theorem addressOffset_eq (p2 p3 : Byte) : addressOffset p2 p3 = BitVec.ofNat 32 (p2.toNat * 256 + p3.toNat) := by
  have hjoin : p2.toNat <<< 8 ||| p3.toNat = p2.toNat * 256 + p3.toNat := by
    rw [← Nat.shiftLeft_add_eq_or_of_lt p3.isLt, Nat.shiftLeft_eq]
  rw [addressOffset, ← BitVec.ofNat_toNat, ← BitVec.ofNat_toNat, ofNat_shiftLeft, ← BitVec.ofNat_or, hjoin]

/-- The address's shift and sum of words are a product and a sum of numbers, modulo 2^32. -/
theorem targetAddress_eq (p2 p3 : Byte) : targetAddress p2 p3 = BitVec.ofNat 32
    (Config.flashBase.toNat + (p2.toNat * 256 + p3.toNat) * 2 ^ Config.addressShift.amount) := by
  rw [targetAddress, addressOffset_eq, ofNat_shiftLeft, Nat.shiftLeft_eq, BitVec.ofNat_add _ (_ * _),
    BitVec.ofNat_toNat, BitVec.setWidth_eq]

/-! ### A command that only replies -/

/-- A reply that is all a command does leaves the flash and the registers as they are. -/
theorem State.send_only_replies (s : State) (r : List Byte) :
    FlashKept s (s.send r) ∧ Replies s (s.send r) r ∧ (s.send r).regs = s.regs :=
  ⟨.of_eq rfl rfl, s.send_replies r, s.send_regs r⟩

/-! ### The commands -/

theorem exec_keepAlive (p1 lo hi : Byte) (s : State) : exec (.keepAlive p1 lo hi) s =
    .next (s.ifCrc [0xFD, p1] lo hi fun s => s.send [Config.nack]) := rfl

theorem exec_setBuffer (x p2 p3 lo hi : Byte) (s : State) : exec (.setBuffer x p2 p3 lo hi) s =
    .next (s.ifCrc [0xFE, x, p2, p3] lo hi fun s =>
      ({ s with payloadBufferSize := bufferSize p2 p3 }.setPayloadExpected true).conclude) := rfl

theorem exec_setAddress (x p2 p3 lo hi : Byte) (s : State) : exec (.setAddress x p2 p3 lo hi) s =
    .next (s.ifCrc [0xFF, x, p2, p3] lo hi fun s =>
      { s with currentAddress := targetAddress p2 p3 }.send [Config.ack]) := rfl

/-- Settles O34: whichever way the CRC check goes, the command only replies. -/
theorem keepAliveNeverAcks : Obligations.KeepAliveNeverAcks := by
  intro p1 lo hi s
  refine ⟨_, exec_keepAlive p1 lo hi s, ?_⟩
  rcases s.ifCrc_cases [0xFD, p1] lo hi (fun s => s.send [Config.nack]) with ⟨hv, e⟩ | ⟨hv, e⟩ <;> rw [e, hv]
  · exact ⟨s.send_regs [Config.nack], .of_eq rfl rfl, s.send_replies [Config.nack]⟩
  · exact ⟨s.send_regs [Config.badCrc], .of_eq rfl rfl, s.send_replies [Config.badCrc]⟩

/-- Settles O35: a good CRC writes two registers and ends the command, a bad one only replies. -/
theorem setBufferEntersPayloadMode : Obligations.SetBufferEntersPayloadMode := by
  intro x p2 p3 lo hi s
  refine ⟨_, exec_setBuffer x p2 p3 lo hi s, ?_⟩
  rcases s.ifCrc_cases [0xFE, x, p2, p3] lo hi _ with ⟨hv, e⟩ | ⟨hv, e⟩ <;> rw [e, hv]
  · rw [← bufferSize_eq]
    exact ⟨.of_eq rfl rfl, State.conclude_endsSilently _, rfl⟩
  · exact s.send_only_replies [Config.badCrc]

/-- Settles O36: a good CRC writes the address and replies ACK, a bad one only replies. -/
theorem setAddressComputesTheAddress : Obligations.SetAddressComputesTheAddress := by
  intro x p2 p3 lo hi s
  refine ⟨_, exec_setAddress x p2 p3 lo hi s, ?_⟩
  rcases s.ifCrc_cases [0xFF, x, p2, p3] lo hi _ with ⟨hv, e⟩ | ⟨hv, e⟩ <;> rw [e, hv]
  · rw [← targetAddress_eq]
    exact ⟨.of_eq rfl rfl, State.send_replies { s with currentAddress := targetAddress p2 p3 } [Config.ack], rfl⟩
  · exact s.send_only_replies [Config.badCrc]

end Sys2Proof.Machine
end

section
/-!
The decoder (30_encoding.md). It reads a frame only through the byte at each offset, so two frames that agree at every
offset decode alike; and the probe's marker lies at offset 16 or beyond, so no frame of a command format is a probe.
-/

namespace Sys2Proof.Machine

/-! ### The two modes -/

theorem decode_command {f : List Byte} (hne : f ≠ []) (hlen : f.length ≤ 258) :
    decode .command f = .ok (decodeCommand f) := by
  have hcap : ¬ f.length > Config.nRx := Nat.not_lt.2 hlen
  rw [decode.eq_def, if_neg hne, if_neg hcap]

theorem decode_payload {n : Nat} {f : List Byte} (hne : f ≠ []) (hlen : f.length ≤ 258) (hn : n ≤ 256) :
    decode (.payload n) f = .ok (decodePayload n f) := by
  have hcap : ¬ f.length > Config.nRx := Nat.not_lt.2 hlen
  rw [decode.eq_def, if_neg hne, if_neg hcap]
  exact if_neg (Nat.not_lt.2 hn)

theorem decode_payload_of_illegal {n : Nat} {f : List Byte} (hne : f ≠ []) (hlen : f.length ≤ 258) (hn : 256 < n) :
    decode (.payload n) f = .error .payloadSizeIllegal := by
  have hcap : ¬ f.length > Config.nRx := Nat.not_lt.2 hlen
  rw [decode.eq_def, if_neg hne, if_neg hcap]
  exact if_pos hn

/-- A command frame with no probe in it is read by byte 0 (R83). -/
theorem decodeCommand_of_no_probe {f : List Byte} (h : probeMatch f = none) : decodeCommand f = decodeCode f := by
  rw [decodeCommand, h]

theorem decodeCommand_of_probe {f : List Byte} {p : ProbeSite} (h : probeMatch f = some p) :
    decodeCommand f = .deviceProbe p := by
  rw [decodeCommand, h]

/-! ### The probe -/

/-- The first of the three sites that matches. -/
theorem probeMatch_eq (f : List Byte) : probeMatch f =
    if siteMatches f ⟨16, 8, 9⟩ then some ⟨16, 8, 9⟩ else if siteMatches f ⟨20, 12, 13⟩ then some ⟨20, 12, 13⟩
    else if siteMatches f ⟨40, 32, 33⟩ then some ⟨40, 32, 33⟩ else none := by
  simp only [probeMatch, Config.probeSites, List.find?_cons, List.find?_nil]
  cases siteMatches f ⟨16, 8, 9⟩ <;> cases siteMatches f ⟨20, 12, 13⟩ <;> cases siteMatches f ⟨40, 32, 33⟩ <;> rfl

/-- A site that matches has its marker inside the frame, since past the end every byte reads 0x00. -/
theorem marker_lt_of_siteMatches {f : List Byte} {p : ProbeSite} (h : siteMatches f p = true) : p.marker < f.length := by
  obtain ⟨hm, -, -⟩ := (siteMatches_iff f p).1 h
  by_contra hlt
  rw [List.getD_eq_default _ _ (Nat.le_of_not_lt hlt)] at hm
  exact absurd hm (by decide)

theorem mem_probeSites_of_probeMatch {f : List Byte} {p : ProbeSite} (h : probeMatch f = some p) :
    p ∈ Config.probeSites := List.mem_of_find?_eq_some h

/-- Settles O5: the lowest marker stands at offset 16. -/
theorem probeNeedsSeventeenBytes : Obligations.ProbeNeedsSeventeenBytes := by
  intro f p h
  have hlt := marker_lt_of_siteMatches (List.find?_some h)
  have hmarker : ∀ q ∈ Config.probeSites, 16 ≤ q.marker := by decide
  exact Nat.lt_of_le_of_lt (hmarker p (mem_probeSites_of_probeMatch h)) hlt

/-- A frame of a command format is too short to be a probe. -/
theorem probeMatch_of_short {f : List Byte} (h : f.length < 17) : probeMatch f = none := by
  cases hp : probeMatch f with
  | none => rfl
  | some p => exact absurd (probeNeedsSeventeenBytes f p hp) (Nat.not_le.2 h)

/-- A short command frame is read by byte 0. -/
theorem decode_of_short (c : Byte) {tail : List Byte} (h : tail.length < 16) :
    decode .command (c :: tail) = .ok (decodeCode (c :: tail)) := by
  have hlen : (c :: tail).length < 17 := Nat.succ_lt_succ h
  rw [decode_command (List.cons_ne_nil c tail) (by omega), decodeCommand_of_no_probe (probeMatch_of_short hlen)]

/-! ### Round trip -/

/-- The codes of the command map other than the unknown ones lie outside 0x05 to 0xFC (R80, R82). -/
theorem decodeCode_unknown {code : Byte} {tail : List Byte} (hlo : 0x05#8 ≤ code) (hhi : code ≤ 0xFC#8) :
    decodeCode (code :: tail) = .unknown code := by
  rw [BitVec.le_def, BitVec.toNat_ofNat] at hlo hhi
  have hne : ∀ c : Byte, (c.toNat < 5 ∨ 252 < c.toNat) → code ≠ c := by rintro c hc rfl; omega
  simp only [decodeCode, frameByte, List.getD_cons_zero]
  rw [if_neg (hne _ (by decide)), if_neg (hne _ (by decide)), if_neg (hne _ (by decide)), if_neg (hne _ (by decide)),
    if_neg (hne _ (by decide)), if_neg (hne _ (by decide)), if_neg (hne _ (by decide)), if_neg (hne _ (by decide))]

/-- The bytes at the offsets of a list are the list. -/
theorem map_frameByte_append (data tail : List Byte) :
    (List.range data.length).map (frameByte (data ++ tail)) = data := by
  refine List.ext_getElem (by simp) fun k _ hk => ?_
  rw [List.getElem_map, List.getElem_range, frameByte, List.getD_append _ _ _ _ hk, List.getD_eq_getElem _ _ hk]

theorem decodePayload_append (data : List Byte) (lo hi : Byte) :
    decodePayload data.length (data ++ [lo, hi]) = .rawPayload data lo hi := by
  rw [decodePayload, map_frameByte_append, frameByte, frameByte, List.getD_append_right _ _ _ _ (Nat.le_refl _),
    List.getD_append_right _ _ _ _ (Nat.le_succ _), Nat.sub_self, Nat.succ_sub (Nat.le_refl _), Nat.sub_self]
  rfl

/-- A payload frame decodes to its data and its two CRC bytes. -/
theorem decode_payload_append {data : List Byte} (h : data.length ≤ 256) (lo hi : Byte) :
    decode (.payload data.length) (data ++ [lo, hi]) = .ok (.rawPayload data lo hi) := by
  rw [decode_payload (by simp) (by simpa using h) h, decodePayload_append]

/-- Settles O1, by the instruction's format. -/
theorem decodeEncodeRoundTrip : Obligations.DecodeEncodeRoundTrip := by
  intro i h
  cases i with
  | rawPayload data lo hi => exact decode_payload_append (of_decide_eq_true h) lo hi
  | deviceProbe site =>
    have hsites : ∀ p ∈ Config.probeSites, decode .command (probeFrame p) = .ok (.deviceProbe p) := by decide
    exact hsites site (of_decide_eq_true h)
  | unknown code =>
    obtain ⟨hlo, hhi⟩ := Bool.and_eq_true_iff.1 h
    exact (decode_of_short code (by simp)).trans
      (congrArg _ (decodeCode_unknown (of_decide_eq_true hlo) (of_decide_eq_true hhi)))
  | _ => exact decode_of_short _ (by simp)

/-! ### What the decoder answers -/

/-- The command map never answers an ill-formed instruction: a code that none of its tests takes is an unknown one. -/
theorem decodeCode_wellFormed (f : List Byte) : WellFormed (decodeCode f) := by
  unfold decodeCode
  dsimp only
  split_ifs with h0 h1 h2 h3 h4 hFD hFE hFF
  case neg =>
    have hrange : 0x05#8 ≤ frameByte f 0 ∧ frameByte f 0 ≤ 0xFC#8 := by
      generalize frameByte f 0 = c at *
      exact ⟨by bv_omega, by bv_omega⟩
    simpa [WellFormed, Instr.wellFormed] using hrange
  all_goals rfl

/-- Settles O2, by the mode and, for a command, whether it is a probe. -/
theorem decodedIsWellFormed : Obligations.DecodedIsWellFormed := by
  intro m f i h
  obtain ⟨-, -, ⟨-, rfl⟩ | ⟨n, -, hn, rfl⟩⟩ := decode_ok h
  · cases hp : probeMatch f with
    | none => rw [decodeCommand_of_no_probe hp]; exact decodeCode_wellFormed f
    | some p => rw [decodeCommand_of_probe hp]; exact decide_eq_true (mem_probeSites_of_probeMatch hp)
  · exact decide_eq_true (by rw [List.length_map, List.length_range]; exact hn)

/-! ### Zero fill -/

/-- A frame filled up with zeros has the same byte at every offset (R77). -/
theorem frameByte_append_zeros (f : List Byte) (k : Nat) : frameByte (f ++ List.replicate k 0) = frameByte f := by
  funext j
  unfold frameByte
  rcases Nat.lt_or_ge j f.length with hj | hj
  · exact List.getD_append _ _ _ _ hj
  · rw [List.getD_append_right _ _ _ _ hj, List.getD_eq_default _ _ hj, List.getD_eq_getElem?_getD,
      List.getElem?_replicate]
    split <;> rfl

/-- The decoder reads a frame only through the byte at each offset. -/
theorem decode_congr {f g : List Byte} (h : frameByte f = frameByte g) (hf : f ≠ []) (hg : g ≠ [])
    (hflen : f.length ≤ 258) (hglen : g.length ≤ 258) (m : FrameMode) : decode m f = decode m g := by
  have hsites : siteMatches f = siteMatches g := by funext p; rw [siteMatches, siteMatches, h]
  have hcode : decodeCode f = decodeCode g := by unfold decodeCode; rw [h]
  cases m with
  | command =>
    rw [decode_command hf hflen, decode_command hg hglen, decodeCommand, decodeCommand, probeMatch, probeMatch, hsites,
      hcode]
  | payload n =>
    rcases Nat.lt_or_ge 256 n with hn | hn
    · rw [decode_payload_of_illegal hf hflen hn, decode_payload_of_illegal hg hglen hn]
    · rw [decode_payload hf hflen hn, decode_payload hg hglen hn, decodePayload, decodePayload, h]

/-- Settles O3. -/
theorem zeroFillDecodesAlike : Obligations.ZeroFillDecodesAlike := by
  intro m f k hne hlen
  refine decode_congr (frameByte_append_zeros f k) (List.append_ne_nil_of_left_ne_nil hne _) hne ?_ (by omega) m
  rwa [List.length_append, List.length_replicate]

/-! ### The selection order -/

/-- Byte 0 selects by the command map, as numbers (R80). -/
theorem decodeCode_eq_match (f : List Byte) : decodeCode f = match (f.getD 0 0).toNat with
    | 0x00 => .run (f.getD 1 0) (f.getD 2 0) (f.getD 3 0)
    | 0x01 => .progFlash (f.getD 1 0) (f.getD 2 0) (f.getD 3 0)
    | 0x02 => .eraseFlash (f.getD 1 0) (f.getD 2 0) (f.getD 3 0)
    | 0x03 => .readFlash (f.getD 1 0) (f.getD 2 0) (f.getD 3 0)
    | 0x04 => .readEeprom
    | 0xFD => .keepAlive (f.getD 1 0) (f.getD 2 0) (f.getD 3 0)
    | 0xFE => .setBuffer (f.getD 1 0) (f.getD 2 0) (f.getD 3 0) (f.getD 4 0) (f.getD 5 0)
    | 0xFF => .setAddress (f.getD 1 0) (f.getD 2 0) (f.getD 3 0) (f.getD 4 0) (f.getD 5 0)
    | _ => .unknown (f.getD 0 0) := by
  unfold decodeCode frameByte
  generalize f.getD 0 0 = c
  have hcode : ∀ {n : Nat}, c.toNat = n → c = BitVec.ofNat 8 n := fun h => by
    rw [← h, BitVec.ofNat_toNat, BitVec.setWidth_eq]
  split
  case h_9 h0 h1 h2 h3 h4 hFD hFE hFF =>
    have hne : ∀ k : Byte, (c.toNat = k.toNat → False) → c ≠ k := fun k h e => h (congrArg _ e)
    rw [if_neg (hne 0x00#8 h0), if_neg (hne 0x01#8 h1), if_neg (hne 0x02#8 h2), if_neg (hne 0x03#8 h3),
      if_neg (hne 0x04#8 h4), if_neg (hne 0xFD#8 hFD), if_neg (hne 0xFE#8 hFE), if_neg (hne 0xFF#8 hFF)]
  all_goals next hc => rw [hcode hc]; rfl

/-- The bytes of a payload frame stand at their offsets. -/
theorem map_frameByte_getD (f : List Byte) {n k : Nat} (hk : k < n) :
    ((List.range n).map (frameByte f)).getD k 0 = f.getD k 0 := by
  rw [List.getD_eq_getElem _ _ (by simpa using hk), List.getElem_map, List.getElem_range, frameByte]

/-- Settles O4: in payload mode the size alone; else the three sites in order, and byte 0 where none matches. -/
theorem selectionOrderOfDecoder : Obligations.SelectionOrderOfDecoder := by
  intro f hne hlen
  refine ⟨fun n hn => ?_, ?_⟩
  · exact ⟨(List.range n).map (frameByte f), f.getD n 0, f.getD (n + 1) 0, by simp, fun k => map_frameByte_getD f, rfl,
      rfl, decode_payload hne hlen hn⟩
  · rw [decode_command hne hlen]
    congr 1
    have hp := probeMatch_eq f
    simp only [siteMatches_iff] at hp
    split_ifs at hp ⊢
    · exact decodeCommand_of_probe hp
    · exact decodeCommand_of_probe hp
    · exact decodeCommand_of_probe hp
    · exact (decodeCommand_of_no_probe hp).trans (decodeCode_eq_match f)

/-- Settles O7: five short frames, read by byte 0. -/
theorem commandWordsDecode : Obligations.CommandWordsDecode :=
  ⟨decode_of_short 0x01 (by decide), decode_of_short 0xFE (by decide), decode_of_short 0xFF (by decide),
    decode_of_short 0xFC (by decide), decode_of_short 0x04 (by decide)⟩

end Sys2Proof.Machine
end

section
/-!
What a step can do, said once with the whole next state: one constructor per outcome of a dispatch (43_commands.md) and
one per outcome of a step in ASSEMBLE (42_assembly.md R149). The invariants are proved along these cases.
-/

namespace Sys2Proof.Machine

/-! ### A dispatch -/

/-- What the dispatch of an instruction can lead to. -/
inductive DispatchEffect (s : State) : Instr → State → Prop
  /-- The command only replies, with a string that `Send` takes (44_responses.md R200). -/
  | replies (i : Instr) (r : List Byte) (hr : 1 ≤ r.length ∧ r.length ≤ 259) : DispatchEffect s i (s.send r)
  /-- RUN with zero arguments (R169). -/
  | jumps : DispatchEffect s (.run 0 0 0) (s.setFail 101).conclude
  /-- RUN with other arguments (R169). -/
  | ignores (a1 a2 a3 : Byte) : DispatchEffect s (.run a1 a2 a3) s.conclude
  /-- READ_EEPROM (R173). -/
  | flags : DispatchEffect s .readEeprom s.setEepromReq.conclude
  /-- SET_BUFFER with a good CRC (R175). -/
  | setsBuffer (x p2 p3 lo hi : Byte) (hv : verify [0xFE, x, p2, p3] lo hi = true) :
    DispatchEffect s (.setBuffer x p2 p3 lo hi)
      ({ s with payloadBufferSize := bufferSize p2 p3 }.setPayloadExpected true).conclude
  /-- SET_ADDRESS with a good CRC (R176). -/
  | setsAddress (x p2 p3 lo hi : Byte) (hv : verify [0xFF, x, p2, p3] lo hi = true) :
    DispatchEffect s (.setAddress x p2 p3 lo hi) ({ s with currentAddress := targetAddress p2 p3 }.send [Config.ack])
  /-- An unknown code (R177). -/
  | unknown (code : Byte) : DispatchEffect s (.unknown code) (s.sendThen .countUnknown [Config.nack])
  /-- A raw payload with a good CRC (R162). -/
  | accepts (data : List Byte) (lo hi : Byte) (hv : verify data lo hi = true) :
    DispatchEffect s (.rawPayload data lo hi) (s.acceptPayload data)
  /-- PROG_FLASH with a good CRC at a writable address (R170). -/
  | writes (p1 lo hi : Byte) (hv : verify [0x01, p1] lo hi = true) (hw : writable s.currentAddress = true) :
    DispatchEffect s (.progFlash p1 lo hi) ((s.memWrite s.currentAddress s.storedPayload).2.send
      [if Config.flashWriteOk s.draws then Config.ack else Config.nack])
  /-- READ_FLASH with a good CRC (R172). -/
  | reads (p1 lo hi : Byte) (hv : verify [0x03, p1] lo hi = true) :
    DispatchEffect s (.readFlash p1 lo hi) ((s.memRead s.currentAddress (outSize p1)).2.send
      (readResponse (s.flash.readBytes s.currentAddress (outSize p1))))

theorem outSize_bounds (p1 : Byte) : 1 ≤ outSize p1 ∧ outSize p1 ≤ 256 := by
  unfold outSize
  split
  · decide
  · next h =>
    have hlt := p1.isLt
    have hne : p1.toNat ≠ 0 := fun h0 => h (BitVec.eq_of_toNat_eq h0)
    omega

theorem zeroArgs_iff (a1 a2 a3 : Byte) : zeroArgs a1 a2 a3 = true ↔ a1 = 0 ∧ a2 = 0 ∧ a3 = 0 := by
  simp only [zeroArgs, Bool.and_eq_true, beq_iff_eq, and_assoc]

@[simp] theorem readBytes_length (m : Memory) (a : U32) (n : Nat) : (m.readBytes a n).length = n := by
  rw [Memory.readBytes, List.length_map, List.length_range]

@[simp] theorem readResponse_length (d : List Byte) : (readResponse d).length = d.length + 3 := by
  simp only [readResponse, crcBytes, List.length_append, List.length_cons, List.length_nil]

/-- A reply of one byte is a string that `Send` takes. -/
theorem length_singleton_bounds (b : Byte) : 1 ≤ [b].length ∧ [b].length ≤ 259 := ⟨Nat.le_refl 1, Nat.le_add_left 1 258⟩

/-- A bad CRC leads to a reply, so an instruction with a CRC has its good effect or only replies. -/
theorem DispatchEffect.ifCrc {s : State} {i : Instr} {span : List Byte} {lo hi : Byte} {act : State → State}
    (h : verify span lo hi = true → DispatchEffect s i (act s)) : DispatchEffect s i (s.ifCrc span lo hi act) := by
  rcases s.ifCrc_cases span lo hi act with ⟨hv, e⟩ | ⟨-, e⟩ <;> rw [e]
  · exact h hv
  · exact .replies i _ (length_singleton_bounds _)

/-- Every instruction completes, in one of these ways. -/
theorem exec_effect (i : Instr) (s : State) : ∃ t, exec i s = .next t ∧ DispatchEffect s i t := by
  cases i with
  | run a1 a2 a3 =>
    refine ⟨_, rfl, ?_⟩
    split
    · next hz =>
      obtain ⟨rfl, rfl, rfl⟩ := (zeroArgs_iff a1 a2 a3).1 hz
      exact .jumps
    · exact .ignores a1 a2 a3
  | progFlash p1 lo hi =>
    refine ⟨_, rfl, .ifCrc fun hv => ?_⟩
    rcases s.program_cases with ⟨hw, e⟩ | ⟨-, e⟩ <;> rw [e]
    · exact .writes p1 lo hi hv hw
    · exact .replies _ _ (length_singleton_bounds _)
  | eraseFlash p1 lo hi =>
    refine ⟨_, rfl, .ifCrc fun _ => ?_⟩
    split <;> exact .replies _ _ (length_singleton_bounds _)
  | readFlash p1 lo hi => exact ⟨_, rfl, .ifCrc fun hv => .reads p1 lo hi hv⟩
  | readEeprom => exact ⟨_, rfl, .flags⟩
  | keepAlive p1 lo hi => exact ⟨_, rfl, .ifCrc fun _ => .replies _ _ (length_singleton_bounds _)⟩
  | setBuffer x p2 p3 lo hi => exact ⟨_, rfl, .ifCrc fun hv => .setsBuffer x p2 p3 lo hi hv⟩
  | setAddress x p2 p3 lo hi => exact ⟨_, rfl, .ifCrc fun hv => .setsAddress x p2 p3 lo hi hv⟩
  | unknown code => exact ⟨_, rfl, .unknown code⟩
  | rawPayload data lo hi => exact ⟨_, rfl, .ifCrc fun hv => .accepts data lo hi hv⟩
  | deviceProbe site => exact ⟨_, rfl, .replies _ _ (by decide)⟩

/-- The state a dispatch leads to is one of these. -/
theorem DispatchEffect.of_exec {i : Instr} {s t : State} (h : exec i s = .next t) : DispatchEffect s i t := by
  obtain ⟨u, hu, he⟩ := exec_effect i s
  rw [h] at hu
  cases hu
  exact he

/-! ### A step in ASSEMBLE -/

/-- What a step in ASSEMBLE can lead to. -/
inductive AssembleEffect (s : State) : State → Prop
  /-- The session's `EnterRX()` (R140). -/
  | enters (hrx : s.rx = .session) : AssembleEffect s { s.enterRx with rx := .clear }
  /-- The start of an assembly (R141). -/
  | begins (hrx : s.rx = .clear) : AssembleEffect s s.beginAssembly
  /-- `read_byte` goes on. -/
  | listens (p q : ReadPhase) (d o : Nat) (hrx : s.rx = .reading p) (ho : o = s.timerOrigin ∨ o = s.now)
    (hq : q = p ∨ ReadPhaseOk q) :
    AssembleEffect s { s with rx := .reading q, now := s.now + d, timerOrigin := o }
  /-- An idle timeout (R145). -/
  | timesOut (hrx : s.rx = .reading .idleWait) : AssembleEffect s (s.setFail 101).abort
  /-- The gap after a command message (R142). -/
  | completes (p : ReadPhase) (hrx : s.rx = .reading p) (hm : s.msgRcvd = true) : AssembleEffect s s.complete
  /-- The gap inside a payload, or a framing error (R144, R147). -/
  | aborts (d : Nat) : AssembleEffect s (s.wait d).abort
  /-- A byte (R142, R143). -/
  | stores (b : Byte) (hrx : s.rx = .reading (.stopCheck b)) :
    AssembleEffect s ((s.wait Config.timing.tBit).storeByte b).afterStore

/-- A step in ASSEMBLE is one of these. -/
theorem State.assembleStep_effect (s : State) : AssembleEffect s s.assembleStep := by
  unfold State.assembleStep
  split
  · next hrx => exact .enters hrx
  · next hrx => exact .begins hrx
  next p hrx =>
  cases h : readByteStep p s with
  | still t =>
    obtain ⟨x, d, o, rfl, ho, rfl | ⟨q, rfl, hq⟩⟩ := readByteStep_still h
    · rw [hrx]; exact .listens p p d o hrx ho (.inl rfl)
    · exact .listens p q d o hrx ho (.inr hq)
  | done r t =>
    rcases readByteStep_done h with ⟨rfl, rfl, rfl⟩ | ⟨rfl, rfl, rfl, hm⟩ | ⟨rfl, rfl, rfl⟩ | ⟨b, rfl, rfl | rfl, rfl⟩
    · exact .timesOut hrx
    · simp only [assemblyReceive, State.assemblyOutcome, State.handleError]
      split
      · exact .completes .startWait hrx hm
      · exact .aborts 0
    · exact .aborts _
    · exact .stores b hrx
    · exact .aborts _

/-- Handling a stored byte takes no time. -/
theorem State.afterStore_now (s : State) : s.afterStore.now = s.now := by
  rcases s.afterStore_cases with ⟨-, -, e⟩ | ⟨-, -, e⟩ | ⟨n, -, -, e⟩ | ⟨n, -, -, e⟩ <;> rw [e] <;> rfl

theorem AssembleEffect.now_le {s t : State} (h : AssembleEffect s t) : s.now ≤ t.now := by
  cases h with
  | stores b => rw [State.afterStore_now]; exact Nat.le_add_right _ _
  | listens | aborts => exact Nat.le_add_right _ _
  | enters | begins | timesOut | completes => exact Nat.le_refl _

end Sys2Proof.Machine
end

section
/-!
Who writes what. A step outside DISPATCH leaves the registers that commands write, the payload buffer, the flash and the
peer alone; so a change of one of them is the effect of a dispatched instruction, and the dispatch's cases name it.
-/

namespace Sys2Proof.Machine

/-! ### What the decoder's answer says of the frame mode -/

/-- No command frame is read as a raw payload. -/
theorem decodeCommand_ne_rawPayload (f data : List Byte) (lo hi : Byte) :
    decodeCommand f ≠ .rawPayload data lo hi := by
  unfold decodeCommand decodeCode
  cases probeMatch f with
  | some p => exact nofun
  | none => dsimp only; split_ifs <;> exact nofun

/-- A raw payload is dispatched only in payload mode, and has the announced size. -/
theorem fetch_rawPayload {s : State} {data : List Byte} {lo hi : Byte} (h : s.fetch = .ok (.rawPayload data lo hi)) :
    s.payloadExpected = true ∧ data.length = s.payloadBufferSize.toNat := by
  obtain ⟨-, -, ⟨-, hi⟩ | ⟨n, hm, -, hi⟩⟩ := decode_ok h
  · exact absurd hi.symm (decodeCommand_ne_rawPayload _ _ _ _)
  · unfold State.fetchMode at hm
    split at hm
    · next hp =>
      cases hm
      cases hi
      exact ⟨hp, by rw [List.length_map, List.length_range]⟩
    · cases hm

/-! ### Outside DISPATCH -/

/-- What only commands write is as before, and so is the peer. -/
def CommandRegsKept (s t : State) : Prop :=
  t.currentAddress = s.currentAddress ∧ t.payloadBufferSize = s.payloadBufferSize ∧ t.eepromReq = s.eepromReq ∧
    t.pbuf = s.pbuf ∧ t.flash = s.flash ∧ t.flashCalls = s.flashCalls ∧ t.peer = s.peer

theorem CommandRegsKept.assembleStep (s : State) : CommandRegsKept s s.assembleStep := by
  obtain ⟨hc, hb, -, he, hp, hf, hl, hq, -⟩ := s.assembleStep_cases
  exact ⟨hc, hb, he, hp, hf, hl, hq⟩

theorem CommandRegsKept.replyStep (s : State) : CommandRegsKept s s.replyStep := by
  rcases s.replyStep_cases with ⟨dir, out, tx, d, e⟩ | e <;> rw [e] <;> exact ⟨rfl, rfl, rfl, rfl, rfl, rfl, rfl⟩

theorem CommandRegsKept.jumpTest (s : State) : CommandRegsKept s s.jumpTest := by
  rcases s.jumpTest_cases with ⟨-, e⟩ | ⟨-, e⟩ <;> rw [e] <;> exact ⟨rfl, rfl, rfl, rfl, rfl, rfl, rfl⟩

theorem CommandRegsKept.handoff (s : State) : CommandRegsKept s s.handoff := by
  rcases s.handoff_cases with e | e <;> rw [e] <;> exact ⟨rfl, rfl, rfl, rfl, rfl, rfl, rfl⟩

/-- A step keeps what commands write, or is the dispatch of an instruction. -/
theorem step_keeps_or_dispatches {s t : State} (h : step s = .next t) :
    CommandRegsKept s t ∨ s.seq = .dispatch ∧ ∃ i, s.fetch = .ok i ∧ DispatchEffect s i t := by
  rcases step_cases h with ⟨-, ⟨-, rfl⟩ | ⟨hs, i, hi, he⟩ | ⟨-, rfl⟩ | ⟨-, rfl⟩ | ⟨-, rfl⟩⟩
  · exact .inl (.assembleStep s)
  · exact .inr ⟨hs, i, hi, .of_exec he⟩
  · exact .inl (.replyStep s)
  · exact .inl (.jumpTest s)
  · exact .inl (.handoff s)

/-! ### The flash -/

/-- The payload PROG_FLASH writes is no longer than the announced size. -/
theorem InRange.of_storedPayload {s : State} {a : U32} {x : Nat} (h : InRange a s.storedPayload.length x) :
    InRange a s.payloadBufferSize.toNat x := by
  obtain ⟨i, hi, hx⟩ := h
  rw [s.storedPayload_length] at hi
  exact ⟨i, lt_of_lt_of_le hi (min_le_left _ _), hx⟩

/-- A flash write leaves every address outside its range. -/
theorem State.memWrite_read_other {s : State} {a : U32} {data : List Byte} {x : Nat} (h : ¬ InRange a data.length x) :
    (s.memWrite a data).2.flash.read x = s.flash.read x :=
  Memory.writeBytes_read_other (by rwa [storedBytes_length])

/-- Settles O54: the one dispatch that touches the flash is PROG_FLASH's write, which stays in its range. -/
theorem flashChangesOnlyByProgFlash : Obligations.FlashChangesOnlyByProgFlash := by
  intro s t h a hne
  rcases step_keeps_or_dispatches h with ⟨-, -, -, -, hf, -⟩ | ⟨hs, i, hi, he⟩
  · exact absurd (by rw [hf]) hne
  cases he with
  | writes p1 lo hi' hv hw =>
    have hr : InRange s.currentAddress s.storedPayload.length a :=
      Classical.byContradiction fun hr => hne (State.memWrite_read_other hr)
    exact ⟨hs, ⟨p1, lo, hi', hi, hv⟩, hw, hr.of_storedPayload⟩
  | _ => exact absurd rfl hne

/-- An access that does not run past the top of the address space stays at or above its start. -/
theorem le_of_inRange {a : U32} {n x : Nat} (h : InRange a n x) (hn : a.toNat + n ≤ 2 ^ 32) : a.toNat ≤ x := by
  obtain ⟨i, hi, rfl⟩ := h
  rw [flashAddress, BitVec.toNat_add, BitVec.toNat_ofNat, Nat.mod_eq_of_lt (by omega : i < 2 ^ 32),
    Nat.mod_eq_of_lt (by omega)]
  exact Nat.le_add_right _ _

/-- The gate as a comparison of numbers (20_memory.md R54). -/
theorem writable_iff (a : U32) : writable a = true ↔ Config.appBase.toNat ≤ a.toNat := by
  rw [writable, decide_eq_true_iff, BitVec.le_def]

/-- Settles O53: what changes lies in the range of a write that starts at or above `APP_BASE` and does not wrap. -/
theorem bootRegionIsNeverWritten : Obligations.BootRegionIsNeverWritten := by
  intro s t h hfit a ha
  by_contra hne
  obtain ⟨-, -, hw, hr⟩ := flashChangesOnlyByProgFlash s t h a hne
  have hbase := (writable_iff s.currentAddress).1 hw
  have hstart := le_of_inRange hr hfit
  omega

/-! ### The registers -/

/-- Settles O56: each of the three registers is written in one case of a dispatch. -/
theorem registersHaveOneWriter : Obligations.RegistersHaveOneWriter := by
  intro s t h
  rcases step_keeps_or_dispatches h with ⟨hc, hb, he, -⟩ | ⟨hs, i, hi, he⟩
  · exact ⟨fun hne => absurd hc hne, fun hne => absurd hb hne, fun hne => absurd he hne⟩
  refine ⟨fun hne => ?_, fun hne => ?_, fun hne => ?_⟩
  · cases he with
    | setsAddress x p2 p3 lo hi' hv => exact ⟨hs, x, p2, p3, lo, hi', hi, hv, rfl⟩
    | _ => exact absurd rfl hne
  · cases he with
    | setsBuffer x p2 p3 lo hi' hv => exact ⟨hs, x, p2, p3, lo, hi', hi, hv, rfl⟩
    | _ => exact absurd rfl hne
  · cases he with
    | flags => exact ⟨hs, hi, rfl⟩
    | _ => exact absurd rfl hne

/-! ### Payload mode -/

/-- Outside DISPATCH payload mode and what waits for `Send` are as before, or `Send` returns and what waited is done. -/
theorem step_keeps_mode_or_dispatches {s t : State} (h : step s = .next t) :
    (t.payloadExpected = s.payloadExpected ∧ t.afterSend = s.afterSend) ∨ (s.seq = .reply ∧ t = s.finishReply) ∨
      s.seq = .dispatch ∧ ∃ i, s.fetch = .ok i ∧ DispatchEffect s i t := by
  rcases step_cases h with ⟨-, ⟨-, rfl⟩ | ⟨hs, i, hi, he⟩ | ⟨hs, rfl⟩ | ⟨-, rfl⟩ | ⟨-, rfl⟩⟩
  · obtain ⟨-, -, hp, -, -, -, -, -, -, ha, -⟩ := s.assembleStep_cases
    exact .inl ⟨hp, ha⟩
  · exact .inr (.inr ⟨hs, i, hi, .of_exec he⟩)
  · rcases s.replyStep_cases with ⟨dir, out, tx, d, e⟩ | e
    · rw [e]; exact .inl ⟨rfl, rfl⟩
    · exact .inr (.inl ⟨hs, e⟩)
  · rcases s.jumpTest_cases with ⟨-, e⟩ | ⟨-, e⟩ <;> rw [e] <;> exact .inl ⟨rfl, rfl⟩
  · rcases s.handoff_cases with e | e <;> rw [e] <;> exact .inl ⟨rfl, rfl⟩

/-- Only an accepted payload writes `PBUF` or begins the ACK after which payload mode ends. -/
theorem DispatchEffect.accepts_of_payload {s t : State} {i : Instr} (h : DispatchEffect s i t)
    (hc : t.pbuf ≠ s.pbuf ∨ t.afterSend = .leavePayloadMode ∧ s.afterSend ≠ .leavePayloadMode) :
    ∃ data lo hi, i = .rawPayload data lo hi ∧ verify data lo hi = true ∧ t = s.acceptPayload data := by
  cases h with
  | accepts data lo hi hv => exact ⟨data, lo, hi, rfl, hv, rfl⟩
  | jumps | ignores | flags | setsBuffer => exact hc.elim (absurd rfl) fun ⟨ht, hs⟩ => absurd ht hs
  | _ => exact hc.elim (absurd rfl) fun ⟨ht, _⟩ => nomatch ht

/-- Settles O57: the payload buffer, the end of payload mode and its begin, each from the one case that writes it. -/
theorem payloadModeIsSticky : Obligations.PayloadModeIsSticky := by
  intro s t h
  refine ⟨fun hc => ?_, fun hs ht => ?_, fun hs ht => ?_⟩
  · have hkept : CommandRegsKept s t → t.pbuf = s.pbuf := fun ⟨_, _, _, hp, _⟩ => hp
    have hd : s.seq = .dispatch ∧ ∃ i, s.fetch = .ok i ∧ DispatchEffect s i t := by
      rcases hc with hp | ⟨ha, ha'⟩
      · exact (step_keeps_or_dispatches h).resolve_left fun hk => hp (hkept hk)
      · rcases step_keeps_mode_or_dispatches h with ⟨-, e⟩ | ⟨-, rfl⟩ | hd
        · exact absurd (e ▸ ha') ha
        · cases ha'
        · exact hd
    obtain ⟨hs, i, hi, he⟩ := hd
    obtain ⟨data, lo, hi', rfl, hv, rfl⟩ := he.accepts_of_payload (hc.imp_right And.symm)
    exact ⟨hs, rfl, rfl, rfl, data, lo, hi', hi, (fetch_rawPayload hi).2, hv⟩
  · rcases step_keeps_mode_or_dispatches h with ⟨e, -⟩ | ⟨hr, rfl⟩ | ⟨-, i, -, he⟩
    · rw [e, hs] at ht; cases ht
    · cases ha : s.afterSend with
      | leavePayloadMode => exact ⟨hr, rfl, rfl⟩
      | _ => rw [State.finishReply_payloadExpected, ha, hs] at ht; cases ht
    · cases he with
      | setsBuffer => cases ht
      | _ => exact absurd (hs.symm.trans ht) (by decide)
  · rcases step_keeps_mode_or_dispatches h with ⟨e, -⟩ | ⟨-, rfl⟩ | ⟨hd, i, hi, he⟩
    · rw [e, hs] at ht; cases ht
    · rw [State.finishReply_payloadExpected, hs] at ht
      cases ha : s.afterSend <;> rw [ha] at ht <;> cases ht
    · cases he with
      | setsBuffer x p2 p3 lo hi' hv => exact ⟨hd, rfl, x, p2, p3, lo, hi', hi, hv⟩
      | _ => exact absurd (hs.symm.trans ht) (by decide)

/-! ### FAIL_SCORE -/

/-- Settles O48: the cases of a step that write the score, and those that leave something to be counted. -/
theorem failScoreChangesOnlyByListedEvents : Obligations.FailScoreChangesOnlyByListedEvents := by
  intro s t h
  refine ⟨fun hne => ?_, fun ht => ?_⟩
  · rcases step_cases h with ⟨-, ⟨hs, rfl⟩ | ⟨hs, i, hi, he⟩ | ⟨hs, rfl⟩ | ⟨-, rfl⟩ | ⟨hs, rfl⟩⟩
    · obtain ⟨-, -, -, -, -, -, -, -, -, -, -, e | hidle | hover⟩ := s.assembleStep_cases
      · exact absurd e hne
      · exact .inr (.inr (.inl ⟨hs, hidle⟩))
      · exact .inr (.inr (.inr (.inl ⟨hs, hover⟩)))
    · cases DispatchEffect.of_exec he with
      | jumps => exact .inr (.inl ⟨hs, hi, rfl⟩)
      | _ => exact absurd rfl hne
    · rcases s.replyStep_cases with ⟨dir, out, tx, d, e⟩ | e <;> rw [e] at hne ⊢
      · exact absurd rfl hne
      · cases ha : s.afterSend with
        | countUnknown => exact .inl ⟨hs, rfl, rfl, rfl, by rw [State.finishReply_failScore, ha]; rfl⟩
        | _ => rw [State.finishReply_failScore, ha] at hne; exact absurd rfl hne
    · rcases s.jumpTest_cases with ⟨-, e⟩ | ⟨-, e⟩ <;> rw [e] at hne <;> exact absurd rfl hne
    · rcases s.handoff_cases with e | e <;> rw [e] at hne ⊢
      · exact absurd rfl hne
      · exact .inr (.inr (.inr (.inr ⟨hs, rfl⟩)))
  · rcases step_keeps_mode_or_dispatches h with ⟨-, e⟩ | ⟨-, rfl⟩ | ⟨hs, i, hi, he⟩
    · exact .inl (e ▸ ht)
    · cases ht
    · cases he with
      | unknown code => exact .inr ⟨hs, rfl, code, hi⟩
      | jumps | ignores | flags | setsBuffer => exact .inl ht
      | _ => cases ht

/-! ### Time, the peer and the flash ports -/

/-- Settles O59: every case of a step adds to the time, and PROG_FLASH and READ_FLASH call one port each. -/
theorem timeAdvancesAndPeerIsInput : Obligations.TimeAdvancesAndPeerIsInput := by
  intro s t h
  rcases step_cases h with ⟨-, ⟨-, rfl⟩ | ⟨-, i, -, he⟩ | ⟨-, rfl⟩ | ⟨-, rfl⟩ | ⟨-, rfl⟩⟩
  · obtain ⟨-, -, -, -, -, hcalls, hpeer⟩ := CommandRegsKept.assembleStep s
    exact ⟨s.assembleStep_effect.now_le, hpeer, .inl hcalls⟩
  · cases DispatchEffect.of_exec he with
    | writes | reads => exact ⟨Nat.le_add_right _ _, rfl, .inr ⟨_, rfl⟩⟩
    | _ => exact ⟨Nat.le_add_right _ _, rfl, .inl rfl⟩
  · obtain ⟨-, -, -, -, -, hcalls, hpeer⟩ := CommandRegsKept.replyStep s
    refine ⟨?_, hpeer, .inl hcalls⟩
    rcases s.replyStep_cases with ⟨dir, out, tx, d, e⟩ | e <;> rw [e]
    · exact Nat.le_add_right _ _
    · exact Nat.le_refl _
  · obtain ⟨-, -, -, -, -, hcalls, hpeer⟩ := CommandRegsKept.jumpTest s
    refine ⟨?_, hpeer, .inl hcalls⟩
    rcases s.jumpTest_cases with ⟨-, e⟩ | ⟨-, e⟩
    · rw [e]
    · rw [e]; exact Nat.le_add_right _ _
  · obtain ⟨-, -, -, -, -, hcalls, hpeer⟩ := CommandRegsKept.handoff s
    refine ⟨?_, hpeer, .inl hcalls⟩
    rcases s.handoff_cases with e | e <;> rw [e] <;> exact Nat.le_add_right _ _

end Sys2Proof.Machine
end

section
/-!
The invariant (State.Inv): session start meets it, and every case of a step keeps it. Each proof names the fields the
case writes; the others carry over.
-/

namespace Sys2Proof.Machine

/-! ### The sequencer's clause -/

theorem sequencerOk_assemble {s : State} (hs : s.seq = .assemble) : SequencerOk s ↔
    s.dir = .rx ∧ s.lineOut = true ∧ s.tx = .idle ∧ ∀ p, s.rx = .reading p → CollectOk s ∧ ReadPhaseOk p := by
  rw [SequencerOk, hs]

theorem sequencerOk_dispatch {s : State} (hs : s.seq = .dispatch) : SequencerOk s ↔
    s.dir = .rx ∧ s.lineOut = true ∧ s.tx = .idle ∧ s.rx = .clear ∧ 1 ≤ s.rxCount := by rw [SequencerOk, hs]

theorem sequencerOk_reply {s : State} (hs : s.seq = .reply) : SequencerOk s ↔ s.rx = .clear ∧ TxPhaseOk s := by
  rw [SequencerOk, hs]

theorem sequencerOk_jumpTest {s : State} (hs : s.seq = .jumpTest) : SequencerOk s ↔
    s.dir = .rx ∧ s.lineOut = true ∧ s.tx = .idle ∧ s.rx = .clear := by rw [SequencerOk, hs]

theorem sequencerOk_handoff {s : State} (hs : s.seq = .handoff) : SequencerOk s ↔
    s.dir = .rx ∧ s.lineOut = true ∧ s.tx = .idle ∧ s.rx = .clear ∧ s.jumpRequested = true := by rw [SequencerOk, hs]

/-- The same for a state written out as an update of another, which `hs` alone would not determine. -/
theorem SequencerOk.of_assemble {s : State} (hs : s.seq = .assemble) (h : s.dir = .rx ∧ s.lineOut = true ∧
    s.tx = .idle ∧ ∀ p, s.rx = .reading p → CollectOk s ∧ ReadPhaseOk p) : SequencerOk s :=
  (sequencerOk_assemble hs).2 h

theorem SequencerOk.of_dispatch {s : State} (hs : s.seq = .dispatch) (h : s.dir = .rx ∧ s.lineOut = true ∧
    s.tx = .idle ∧ s.rx = .clear ∧ 1 ≤ s.rxCount) : SequencerOk s := (sequencerOk_dispatch hs).2 h

theorem SequencerOk.of_reply {s : State} (hs : s.seq = .reply) (h : s.rx = .clear ∧ TxPhaseOk s) : SequencerOk s :=
  (sequencerOk_reply hs).2 h

/-- Where nothing is sent, nothing waits for `Send`. -/
theorem State.Inv.afterSend_nothing {s : State} (h : s.Inv) {q : Sequencer} (hs : s.seq = q)
    (hq : q ≠ .reply := by decide) : s.afterSend = .nothing := h.afterSend_reply (hs ▸ hq)

/-- Control has not been transferred outside HANDOFF. -/
theorem State.Inv.not_transferred {s : State} (h : s.Inv) (hf : s.transferred = true) {q : Sequencer} (hs : s.seq = q)
    (hq : q ≠ .handoff := by decide) : False := hq (hs ▸ h.transferred_handoff hf)

/-! ### Session start -/

/-- Settles O50. -/
theorem resetMeetsTheInvariant : Obligations.ResetMeetsTheInvariant where
  size_le := Nat.zero_le _
  count_le := Nat.zero_le _
  rcvd_iff := rfl
  rxbuf_tail k _ := cleared_getD 258 k
  pbuf_tail _ k _ := cleared_getD 256 k
  flash_wf := State.reset_wf
  timer_le := Nat.le_refl _
  seq_ok := ⟨rfl, rfl, rfl, nofun⟩
  afterSend_reply _ := rfl
  afterSend_mode := nofun
  transferred_handoff := nofun

/-! ### ASSEMBLE -/

/-- A message that is being collected leaves room for a byte. -/
theorem CollectOk.count_lt {s : State} (h : CollectOk s) (hsize : s.payloadBufferSize.toNat ≤ 256) :
    s.rxCount < 258 := by
  unfold CollectOk at h
  split at h
  · exact h.2
  · obtain ⟨-, hn, hlt⟩ := h; omega

/-- Ending an assembly without a message keeps the invariant. -/
theorem State.Inv.abort {s : State} (h : s.Inv) (hs : s.seq = .assemble) : s.abort.Inv := by
  obtain ⟨hd, hl, ht, -⟩ := (sequencerOk_assemble hs).1 h.seq_ok
  exact { h with
    seq_ok := ⟨hd, hl, ht, rfl⟩
    afterSend_reply := fun _ => h.afterSend_nothing hs
    transferred_handoff := fun hf => (h.not_transferred hf hs).elim }

/-- Ending an assembly with a message keeps the invariant. -/
theorem State.Inv.complete {s : State} (h : s.Inv) (hs : s.seq = .assemble) (hc : 1 ≤ s.rxCount) : s.complete.Inv := by
  obtain ⟨hd, hl, ht, -⟩ := (sequencerOk_assemble hs).1 h.seq_ok
  exact { h with
    seq_ok := ⟨hd, hl, ht, rfl, hc⟩
    afterSend_reply := fun _ => h.afterSend_nothing hs
    transferred_handoff := fun hf => (h.not_transferred hf hs).elim }

theorem State.Inv.wait {s : State} (h : s.Inv) (hs : s.seq = .assemble) (d : Nat) : (s.wait d).Inv :=
  { h with
    timer_le := Nat.le_trans h.timer_le (Nat.le_add_right _ _)
    seq_ok := .of_assemble hs ((sequencerOk_assemble hs).1 h.seq_ok) }

theorem State.Inv.enterRx {s : State} (h : s.Inv) (hs : s.seq = .assemble) : { s.enterRx with rx := .clear }.Inv := by
  obtain ⟨-, hl, ht, -⟩ := (sequencerOk_assemble hs).1 h.seq_ok
  exact { h with seq_ok := .of_assemble hs ⟨rfl, hl, ht, nofun⟩ }

/-- Going on inside `read_byte` keeps the invariant. -/
theorem State.Inv.listens {s : State} (h : s.Inv) (hs : s.seq = .assemble) (hc : CollectOk s) {q : ReadPhase}
    (hq : ReadPhaseOk q) {o : Nat} (ho : o = s.timerOrigin ∨ o = s.now) (d : Nat) :
    { s with rx := .reading q, now := s.now + d, timerOrigin := o }.Inv := by
  obtain ⟨hd, hl, ht, -⟩ := (sequencerOk_assemble hs).1 h.seq_ok
  exact { h with
    timer_le := Nat.le_trans (ho.elim (· ▸ h.timer_le) Nat.le_of_eq) (Nat.le_add_right _ _)
    seq_ok := .of_assemble hs ⟨hd, hl, ht, fun p hp => ⟨hc, by cases hp; exact hq⟩⟩ }

theorem CollectOk.beginAssembly (s : State) : CollectOk s.beginAssembly := by
  unfold CollectOk
  rw [State.beginAssembly_collect]
  cases hp : s.payloadExpected
  · exact ⟨hp, Nat.zero_lt_succ _⟩
  · exact ⟨hp, rfl, Nat.zero_lt_succ _⟩

theorem State.Inv.beginAssembly {s : State} (h : s.Inv) (hs : s.seq = .assemble) : s.beginAssembly.Inv := by
  obtain ⟨hd, hl, ht, -⟩ := (sequencerOk_assemble hs).1 h.seq_ok
  exact { h with
    count_le := Nat.zero_le _
    rcvd_iff := rfl
    rxbuf_tail := fun k _ => cleared_getD 258 k
    seq_ok := .of_assemble hs
      ⟨hd, hl, ht, fun p hp => ⟨.beginAssembly s, by cases hp; trivial⟩⟩ }

/-- With a byte stored and the place inside `read_byte` left, the invariant holds whether the message is whole or not. -/
theorem State.Inv.storeByte {s : State} (h : s.Inv) (hs : s.seq = .assemble) (hc : CollectOk s) (b : Byte) :
    { s.storeByte b with rx := .clear }.Inv := by
  obtain ⟨hd, hl, ht, -⟩ := (sequencerOk_assemble hs).1 h.seq_ok
  exact { h with
    count_le := hc.count_lt h.size_le
    rcvd_iff := (decide_eq_true (Nat.le_add_left 1 s.rxCount)).symm
    rxbuf_tail := fun k hk =>
      (store_getD_other _ b (Nat.ne_of_gt hk)).trans (h.rxbuf_tail k (Nat.le_of_succ_le hk))
    seq_ok := .of_assemble hs ⟨hd, hl, ht, nofun⟩ }

/-- A message that was being collected still is, if the byte stored was not its last. -/
theorem CollectOk.storeByte {s : State} (h : CollectOk s) (b : Byte)
    (hne : s.collect = .command ∧ s.rxCount + 1 ≠ 258 ∨ ∃ n, s.collect = .payload n ∧ s.rxCount + 1 ≠ n) :
    CollectOk (s.storeByte b) := by
  unfold CollectOk at h ⊢
  rw [State.storeByte_collect]
  rcases hne with ⟨hcol, hne⟩ | ⟨n, hcol, hne⟩ <;> rw [hcol] at h ⊢
  · exact ⟨h.1, lt_of_le_of_ne h.2 hne⟩
  · exact ⟨h.1, h.2.1, lt_of_le_of_ne h.2.2 hne⟩

theorem State.Inv.afterStore {s : State} (h : s.Inv) (hs : s.seq = .assemble) (hc : CollectOk s) (b : Byte) :
    (s.storeByte b).afterStore.Inv := by
  have hst := h.storeByte hs hc b
  have hcomplete := hst.complete hs (Nat.le_add_left 1 _)
  rcases (s.storeByte b).afterStore_cases with ⟨-, -, e⟩ | ⟨hcol, hne, e⟩ | ⟨n, -, -, e⟩ | ⟨n, hcol, hne, e⟩ <;> rw [e]
  · exact { hcomplete with }
  · exact hst.listens hs (hc.storeByte b (.inl ⟨hcol, hne⟩)) (q := .enter) trivial (.inl rfl) 0
  · exact hcomplete
  · exact hst.listens hs (hc.storeByte b (.inr ⟨n, hcol, hne⟩)) (q := .enter) trivial (.inl rfl) 0

theorem State.Inv.assembleStep {s : State} (h : s.Inv) (hs : s.seq = .assemble) : s.assembleStep.Inv := by
  obtain ⟨-, -, -, hreading⟩ := (sequencerOk_assemble hs).1 h.seq_ok
  have effect_inv : ∀ t, AssembleEffect s t → t.Inv := by
    intro t ht
    cases ht with
    | enters => exact h.enterRx hs
    | begins => exact h.beginAssembly hs
    | listens p q d o hrx ho hq =>
      obtain ⟨hc, hp⟩ := hreading p hrx
      exact h.listens hs hc (hq.elim (· ▸ hp) id) ho d
    | timesOut => exact { h.abort hs with }
    | completes p hrx hm => exact h.complete hs (of_decide_eq_true (h.rcvd_iff ▸ hm))
    | aborts d => exact (h.wait hs d).abort hs
    | stores b hrx => exact (h.wait hs _).afterStore hs (hreading _ hrx).1 b
  exact effect_inv _ s.assembleStep_effect

/-! ### DISPATCH -/

/-- Going into a reply keeps the invariant, with the end of payload mode waiting only in payload mode. -/
theorem State.Inv.sendThen {s : State} (h : s.Inv) (hs : s.seq = .dispatch) {a : AfterSend} {r : List Byte}
    (hr : 1 ≤ r.length ∧ r.length ≤ 259)
    (ha : a = .leavePayloadMode → s.payloadExpected = true ∧
      ∀ k, s.payloadBufferSize.toNat ≤ k → s.pbuf.toList.getD k 0 = 0) : (s.sendThen a r).Inv := by
  obtain ⟨hd, hl, ht, hrx, -⟩ := (sequencerOk_dispatch hs).1 h.seq_ok
  exact { h with
    pbuf_tail := fun hp => hp.elim (fun hp => h.pbuf_tail (.inl hp)) fun hp => (ha hp).2
    timer_le := Nat.le_trans h.timer_le (Nat.le_add_right _ _)
    seq_ok := ⟨hrx, hr.1, hr.2, hd, hl⟩
    afterSend_reply := fun hne => absurd rfl hne
    afterSend_mode := fun hp => (ha hp).1
    transferred_handoff := fun hf => (h.not_transferred hf hs).elim }

theorem State.Inv.send {s : State} (h : s.Inv) (hs : s.seq = .dispatch) {r : List Byte}
    (hr : 1 ≤ r.length ∧ r.length ≤ 259) : (s.send r).Inv := h.sendThen hs hr nofun

/-- Ending a command without a reply keeps the invariant. -/
theorem State.Inv.conclude {s : State} (h : s.Inv) (hs : s.seq = .dispatch) : s.conclude.Inv := by
  obtain ⟨hd, hl, ht, hrx, -⟩ := (sequencerOk_dispatch hs).1 h.seq_ok
  exact { h with
    timer_le := Nat.le_trans h.timer_le (Nat.le_add_right _ _)
    seq_ok := ⟨hd, hl, ht, hrx⟩
    afterSend_reply := fun _ => h.afterSend_nothing hs
    transferred_handoff := fun hf => (h.not_transferred hf hs).elim }

/-- The announced size is 0 to 256 (R81). -/
theorem bufferSize_le (p2 p3 : Byte) : (bufferSize p2 p3).toNat ≤ 256 := by
  rw [bufferSize_eq]
  split
  · decide
  · rw [BitVec.toNat_ofNat]
    exact Nat.le_trans (Nat.mod_le _ _) p3.isLt.le

/-- Announcing a payload keeps the invariant. -/
theorem State.Inv.announce {s : State} (h : s.Inv) (hs : s.seq = .dispatch) (p2 p3 : Byte) :
    ({ s with payloadBufferSize := bufferSize p2 p3 }.setPayloadExpected true).Inv :=
  { h with
    size_le := bufferSize_le p2 p3
    pbuf_tail := fun hp => hp.elim nofun fun ha => absurd ((h.afterSend_nothing hs).symm.trans ha) nofun
    seq_ok := .of_dispatch hs ((sequencerOk_dispatch hs).1 h.seq_ok)
    afterSend_mode := fun _ => rfl }

/-- A flash port call keeps the invariant. -/
theorem State.Inv.memWrite {s : State} (h : s.Inv) (hs : s.seq = .dispatch) (a : U32) (data : List Byte) :
    (s.memWrite a data).2.Inv :=
  { h with
    flash_wf := State.memWrite_wf h.flash_wf a data
    seq_ok := .of_dispatch hs ((sequencerOk_dispatch hs).1 h.seq_ok) }

theorem State.Inv.memRead {s : State} (h : s.Inv) (hs : s.seq = .dispatch) (a : U32) (n : Nat) :
    (s.memRead a n).2.Inv :=
  { h with seq_ok := .of_dispatch hs ((sequencerOk_dispatch hs).1 h.seq_ok) }

/-- The payload buffer after an accepted payload is zero past the payload. -/
theorem payloadImage_tail {data : List Byte} {k : Nat} (hk : data.length ≤ k) :
    (payloadImage data).toList.getD k 0 = 0 := by
  rw [payloadImage_getD]
  split
  · exact List.getD_eq_default _ _ hk
  · rfl

theorem State.Inv.dispatch {s t : State} {i : Instr} (h : s.Inv) (hs : s.seq = .dispatch) (hi : s.fetch = .ok i)
    (he : DispatchEffect s i t) : t.Inv := by
  cases he with
  | replies i r hr => exact h.send hs hr
  | jumps => exact { h.conclude hs with }
  | ignores => exact h.conclude hs
  | flags => exact { h.conclude hs with }
  | setsBuffer x p2 p3 lo hi' hv => exact (h.announce hs p2 p3).conclude hs
  | setsAddress x p2 p3 lo hi' hv => exact { h.send hs (length_singleton_bounds _) with }
  | unknown code => exact h.sendThen hs (length_singleton_bounds _) nofun
  | accepts data lo hi' hv =>
    obtain ⟨hp, hlen⟩ := fetch_rawPayload hi
    exact { h.send (r := [Config.ack]) hs (length_singleton_bounds _) with
      pbuf_tail := fun _ k hk => payloadImage_tail (hlen ▸ hk)
      afterSend_reply := fun hne => absurd rfl hne
      afterSend_mode := fun _ => hp }
  | writes p1 lo hi' hv hw => exact (h.memWrite hs _ _).send hs (length_singleton_bounds _)
  | reads p1 lo hi' hv =>
    obtain ⟨-, hle⟩ := outSize_bounds p1
    refine (h.memRead hs _ _).send hs ?_
    rw [readResponse_length, readBytes_length]
    omega

/-! ### REPLY -/

/-- Moving on inside `Send` keeps the invariant. -/
theorem State.Inv.sends {s : State} (h : s.Inv) (hs : s.seq = .reply) {dir : Direction} {out : Level} {tx : TxPhase}
    {d : Nat} (hok : TxPhaseOk { s with dir := dir, lineOut := out, tx := tx, now := s.now + d }) :
    { s with dir := dir, lineOut := out, tx := tx, now := s.now + d }.Inv :=
  { h with
    timer_le := Nat.le_trans h.timer_le (Nat.le_add_right _ _)
    seq_ok := .of_reply hs ⟨((sequencerOk_reply hs).1 h.seq_ok).1, hok⟩ }

/-- The return of `Send` keeps the invariant: the end of payload mode comes with the payload's zero tail. -/
theorem State.Inv.finishReply {s : State} (h : s.Inv) (hs : s.seq = .reply) (hl : s.lineOut = true) :
    s.finishReply.Inv :=
  { h with
    pbuf_tail := fun hp => h.pbuf_tail <| by
      rw [State.finishReply_payloadExpected, State.finishReply_afterSend] at hp
      cases ha : s.afterSend with
      | leavePayloadMode => exact .inr rfl
      | _ => rw [ha] at hp; exact .inl (hp.resolve_right nofun)
    seq_ok := ⟨rfl, hl, rfl, ((sequencerOk_reply hs).1 h.seq_ok).1⟩
    afterSend_reply := fun _ => rfl
    afterSend_mode := nofun
    transferred_handoff := fun hf => (h.not_transferred hf hs).elim }

theorem State.Inv.replyStep {s : State} (h : s.Inv) (hs : s.seq = .reply) : s.replyStep.Inv := by
  obtain ⟨-, hok⟩ := (sequencerOk_reply hs).1 h.seq_ok
  unfold TxPhaseOk at hok
  unfold State.replyStep
  split <;> rename_i ht <;> rw [ht] at hok
  · exact hok.elim
  next r =>
    cases r with
    | nil => exact absurd hok.1 (Nat.not_succ_le_zero 0)
    | cons b rest => exact h.sends hs ⟨rfl, rfl⟩
  · exact h.sends hs ⟨Nat.zero_lt_succ 7, hok.1⟩
  next i b rest =>
    refine h.sends hs ?_
    unfold TxPhaseOk
    dsimp only
    split_ifs with hi
    · exact ⟨Nat.succ_lt_succ hi, hok.2⟩
    · exact hok.2
  · exact h.sends hs (d := 0) ⟨hok, rfl⟩
  · exact h.sends hs ⟨hok, rfl⟩
  · exact h.finishReply hs hok.2

/-! ### JUMP_TEST and HANDOFF -/

/-- The next assembly begins with the invariant. -/
theorem State.Inv.nextCycle {s : State} (h : s.Inv) (ha : s.afterSend = .nothing) (hf : s.transferred = false)
    (hd : s.dir = .rx) (hl : s.lineOut = true) (ht : s.tx = .idle) : s.nextCycle.Inv :=
  { h with
    timer_le := Nat.le_trans h.timer_le (Nat.le_add_right _ _)
    seq_ok := ⟨hd, hl, ht, nofun⟩
    afterSend_reply := fun _ => ha
    transferred_handoff := fun hf' => Bool.noConfusion (hf.symm.trans hf') }

theorem State.Inv.jumpTest {s : State} (h : s.Inv) (hs : s.seq = .jumpTest) (hf : s.transferred = false) :
    s.jumpTest.Inv := by
  obtain ⟨hd, hl, ht, hrx⟩ := (sequencerOk_jumpTest hs).1 h.seq_ok
  have ha := h.afterSend_nothing hs
  rcases s.jumpTest_cases with ⟨hj, e⟩ | ⟨-, e⟩ <;> rw [e]
  · exact { h with
      seq_ok := ⟨hd, hl, ht, hrx, hj⟩
      afterSend_reply := fun _ => ha
      transferred_handoff := fun _ => rfl }
  · exact h.nextCycle ha hf hd hl ht

theorem State.Inv.handoff {s : State} (h : s.Inv) (hs : s.seq = .handoff) (hf : s.transferred = false) :
    s.handoff.Inv := by
  obtain ⟨hd, hl, ht, hrx, hj⟩ := (sequencerOk_handoff hs).1 h.seq_ok
  have ha := h.afterSend_nothing hs
  rcases s.handoff_cases with e | e <;> rw [e]
  · exact { h with
      timer_le := Nat.le_trans h.timer_le (Nat.le_add_right _ _)
      seq_ok := (sequencerOk_handoff hs).2 ⟨hd, hl, ht, hrx, hj⟩
      transferred_handoff := fun _ => hs }
  · exact { h.nextCycle ha hf hd hl ht with
      timer_le := Nat.le_trans h.timer_le (Nat.le_add_right _ _) }

/-! ### Every step -/

/-- Settles O51, by the state of the sequencer. -/
theorem stepKeepsTheInvariant : Obligations.StepKeepsTheInvariant := by
  intro s t h hstep
  rcases step_cases hstep with ⟨hf, ⟨hs, rfl⟩ | ⟨hs, i, hi, he⟩ | ⟨hs, rfl⟩ | ⟨hs, rfl⟩ | ⟨hs, rfl⟩⟩
  · exact h.assembleStep hs
  · exact h.dispatch hs hi (.of_exec he)
  · exact h.replyStep hs
  · exact h.jumpTest hs hf
  · exact h.handoff hs hf

/-- Under the invariant the receive buffer always holds a frame (30_encoding.md R72, 10_state.md R23). -/
theorem State.Inv.fetch_ok {s : State} (h : s.Inv) : ∃ i, s.fetch = .ok i := by
  have hlen : s.rxbuf.toList.length = 258 := by simp
  have hne : s.rxbuf.toList ≠ [] := List.ne_nil_of_length_eq_add_one hlen
  rw [State.fetch, State.fetchMode]
  cases s.payloadExpected
  · exact ⟨_, decode_command hne hlen.le⟩
  · exact ⟨_, decode_payload hne hlen.le h.size_le⟩

/-- Settles O52: outside DISPATCH a step always gives a state, and in DISPATCH the buffer decodes. -/
theorem onlyTransferEndsTheRun : Obligations.OnlyTransferEndsTheRun := by
  intro s h
  cases hf : s.transferred with
  | true => exact ⟨by simp [step, hf], fun _ _ => rfl⟩
  | false =>
    have hnext : ∃ t, step s = .next t := by
      cases hs : s.seq with
      | assemble => exact ⟨_, step_assemble hf hs⟩
      | dispatch =>
        obtain ⟨i, hi⟩ := h.fetch_ok
        obtain ⟨t, ht, -⟩ := exec_effect i s
        exact ⟨t, (step_dispatch hf hs hi).trans ht⟩
      | reply => exact ⟨_, step_reply hf hs⟩
      | jumpTest => exact ⟨_, step_jumpTest hf hs⟩
      | handoff => exact ⟨_, step_handoff hf hs⟩
    obtain ⟨t, ht⟩ := hnext
    rw [ht]
    exact ⟨nofun, nofun⟩

/-! ### The pin -/

theorem AssembleEffect.dir_and_seq {s t : State} (h : AssembleEffect s t) :
    (t.dir = .rx ∨ t.dir = s.dir) ∧ (t.seq = s.seq ∨ t.seq = .dispatch ∨ t.seq = .jumpTest) := by
  cases h with
  | enters => exact ⟨.inl rfl, .inl rfl⟩
  | begins | listens => exact ⟨.inr rfl, .inl rfl⟩
  | timesOut | aborts => exact ⟨.inr rfl, .inr (.inr rfl)⟩
  | completes => exact ⟨.inr rfl, .inr (.inl rfl)⟩
  | stores b =>
    rcases ((s.wait Config.timing.tBit).storeByte b).afterStore_cases with
      ⟨-, -, e⟩ | ⟨-, -, e⟩ | ⟨n, -, -, e⟩ | ⟨n, -, -, e⟩ <;> rw [e]
    · exact ⟨.inr rfl, .inr (.inl rfl)⟩
    · exact ⟨.inr rfl, .inl rfl⟩
    · exact ⟨.inr rfl, .inr (.inl rfl)⟩
    · exact ⟨.inr rfl, .inl rfl⟩

theorem DispatchEffect.dir_eq {s t : State} {i : Instr} (h : DispatchEffect s i t) : t.dir = s.dir := by
  cases h <;> rfl

/-- Only a step in REPLY can make the pin an output. -/
theorem step_drives {s t : State} (h : step s = .next t) (ht : t.dir = .tx) : s.dir = .tx ∨ s.seq = .reply := by
  rcases step_cases h with ⟨-, ⟨-, rfl⟩ | ⟨-, i, -, he⟩ | ⟨hs, -⟩ | ⟨-, rfl⟩ | ⟨-, rfl⟩⟩
  · rcases s.assembleStep_effect.dir_and_seq.1 with e | e <;> rw [e] at ht
    · cases ht
    · exact .inl ht
  · exact .inl ((DispatchEffect.of_exec he).dir_eq ▸ ht)
  · exact .inr hs
  · rcases s.jumpTest_cases with ⟨-, e⟩ | ⟨-, e⟩ <;> rw [e] at ht <;> exact .inl ht
  · rcases s.handoff_cases with e | e <;> rw [e] at ht <;> exact .inl ht

/-- REPLY is entered only from DISPATCH. -/
theorem step_enters_reply {s t : State} (h : step s = .next t) (ht : t.seq = .reply) :
    s.seq = .reply ∨ s.seq = .dispatch := by
  rcases step_cases h with ⟨-, ⟨hs, rfl⟩ | ⟨hs, -⟩ | ⟨hs, -⟩ | ⟨-, rfl⟩ | ⟨hs, rfl⟩⟩
  · rcases s.assembleStep_effect.dir_and_seq.2 with e | e | e <;> rw [e] at ht
    · exact .inl ht
    · cases ht
    · cases ht
  · exact .inr hs
  · exact .inl hs
  · rcases s.jumpTest_cases with ⟨-, e⟩ | ⟨-, e⟩ <;> rw [e] at ht <;> cases ht
  · rcases s.handoff_cases with e | e <;> rw [e] at ht
    · exact .inl ht
    · cases ht

/-- Under the invariant the pin is an output only in REPLY. -/
theorem State.Inv.reply_of_tx {s : State} (h : s.Inv) (hd : s.dir = .tx) : s.seq = .reply := by
  have hok := h.seq_ok
  cases hs : s.seq with
  | reply => rfl
  | _ => rw [SequencerOk, hs, hd] at hok; cases hok.1

/-- Settles O58. -/
theorem transmitsOnlyInReplyToAMessage : Obligations.TransmitsOnlyInReplyToAMessage := fun s t h =>
  ⟨step_drives h, step_enters_reply h, fun hinv => (stepKeepsTheInvariant s t hinv h).reply_of_tx⟩

end Sys2Proof.Machine
end

section
/-!
The CRC's two other forms (40_crc.md): the byte-at-a-time form (R102), the residue of a good frame (R105) and the
comparison of 16-bit values (R104). All three rest on one fact: shifting the register with a data word xored in is
passing one bit of the word through the register and shifting the word.
-/

namespace Sys2Proof.Machine

/-! ### One shift -/

/-- A shift with a word xored in passes the word's lowest bit through the register and keeps the other bits for later. -/
theorem crcShift_xor (c x : U16) : crcShift (c ^^^ x) = crcBit c (x.getLsbD 0) ^^^ (x >>> 1) := by
  have hshift : (c ^^^ x) >>> 1 = c >>> 1 ^^^ x >>> 1 := BitVec.ushiftRight_xor_distrib c x 1
  unfold crcShift crcBit
  rw [BitVec.getLsbD_xor, hshift]
  split_ifs
  · rw [BitVec.xor_assoc, BitVec.xor_comm (x >>> 1), ← BitVec.xor_assoc]
  · rfl

/-- A shift that shifts out a 0 is a plain shift. -/
theorem crcShift_of_lsb {c : U16} (h : c.getLsbD 0 = false) : crcShift c = c >>> 1 := by
  rw [crcShift, h]
  rfl

/-- Eight shifts. -/
def crcShift8 (c : U16) : U16 :=
  crcShift (crcShift (crcShift (crcShift (crcShift (crcShift (crcShift (crcShift c)))))))

/-- Past its eight bits a byte's word is 0. -/
theorem byte_ushiftRight_eight (d : Byte) : d.setWidth 16 >>> 8 = 0#16 := by
  have hlt := d.isLt
  refine BitVec.eq_of_toNat_eq ?_
  rw [BitVec.toNat_ushiftRight, BitVec.toNat_setWidth, Nat.shiftRight_eq_div_pow, BitVec.toNat_ofNat]
  omega

/-! ### The byte-at-a-time form -/

/-- The byte-at-a-time form of one byte is its bit-at-a-time form: each shift passes one bit of the byte. -/
theorem crcByteWise_eq (c : U16) (d : Byte) : crcByteWise c d = crcByte c d := by
  have hbit : ∀ i < 8, (d.setWidth 16 >>> i).getLsbD 0 = d.getLsbD i := fun i hi => by
    rw [BitVec.getLsbD_ushiftRight, BitVec.getLsbD_setWidth, Nat.add_zero, decide_eq_true (by omega), Bool.true_and]
  have hstep : ∀ i < 8, ∀ r, crcShift (r ^^^ d.setWidth 16 >>> i) =
      crcBit r (d.getLsbD i) ^^^ d.setWidth 16 >>> (i + 1) := fun i hi r => by
    rw [crcShift_xor, hbit i hi, ← BitVec.shiftRight_add]
  rw [crcByteWise, ← BitVec.ushiftRight_zero (d.setWidth 16), hstep 0 (by decide), hstep 1 (by decide),
    hstep 2 (by decide), hstep 3 (by decide), hstep 4 (by decide), hstep 5 (by decide), hstep 6 (by decide),
    hstep 7 (by decide), byte_ushiftRight_eight, BitVec.xor_zero]
  rfl

/-- Settles O10. -/
theorem crcByteWiseAgrees : Obligations.CrcByteWiseAgrees := fun s => by
  rw [crc16ByteWise, funext₂ crcByteWise_eq]
  rfl

/-! ### The two bytes of a register -/

theorem crcLow_toNat (c : U16) : (crcLow c).toNat = c.toNat % 256 := by
  rw [crcLow, BitVec.extractLsb'_toNat, Nat.shiftRight_zero]

theorem crcHigh_toNat (c : U16) : (crcHigh c).toNat = c.toNat / 256 := by
  have hlt := c.isLt
  rw [crcHigh, BitVec.extractLsb'_toNat, Nat.shiftRight_eq_div_pow]
  omega

/-- The two bytes of the field do not overlap, so joining them is adding them (R81). -/
theorem crcField_toNat (lo hi : Byte) : (crcField lo hi).toNat = lo.toNat + hi.toNat * 256 := by
  have hlo := lo.isLt
  have hhi := hi.isLt
  have hjoin : hi.toNat <<< 8 ||| lo.toNat = hi.toNat * 256 + lo.toNat := by
    rw [← Nat.shiftLeft_add_eq_or_of_lt hlo, Nat.shiftLeft_eq]
  rw [crcField, BitVec.toNat_or, BitVec.toNat_shiftLeft, BitVec.toNat_setWidth, BitVec.toNat_setWidth,
    Nat.mod_eq_of_lt (by omega : lo.toNat < 2 ^ 16), Nat.mod_eq_of_lt (by omega : hi.toNat < 2 ^ 16),
    Nat.mod_eq_of_lt (by rw [Nat.shiftLeft_eq]; omega), Nat.lor_comm, hjoin, Nat.add_comm]

theorem crcField_crcLow_crcHigh (c : U16) : crcField (crcLow c) (crcHigh c) = c := by
  refine BitVec.eq_of_toNat_eq ?_
  rw [crcField_toNat, crcLow_toNat, crcHigh_toNat]
  omega

theorem crcLow_crcField (lo hi : Byte) : crcLow (crcField lo hi) = lo := by
  have hlo := lo.isLt
  refine BitVec.eq_of_toNat_eq ?_
  rw [crcLow_toNat, crcField_toNat]
  omega

theorem crcHigh_crcField (lo hi : Byte) : crcHigh (crcField lo hi) = hi := by
  have hlo := lo.isLt
  refine BitVec.eq_of_toNat_eq ?_
  rw [crcHigh_toNat, crcField_toNat]
  omega

/-- Settles O13. -/
theorem verifyComparesTheCrcField : Obligations.VerifyComparesTheCrcField := by
  intro s lo hi
  rw [Bool.eq_iff_iff, verify_iff, decide_eq_true_iff]
  constructor
  · rintro ⟨rfl, rfl⟩
    exact (crcField_crcLow_crcHigh _).symm
  · intro h
    rw [h, crcLow_crcField, crcHigh_crcField]
    exact ⟨rfl, rfl⟩

/-! ### The residue -/

/-- Eight shifts of a register whose low byte is 0 are a plain shift by eight. -/
theorem crcShift8_of_low_zero {c : U16} (h : ∀ i < 8, c.getLsbD i = false) : crcShift8 c = c >>> 8 := by
  have hstep : ∀ i < 8, crcShift (c >>> i) = c >>> (i + 1) := fun i hi => by
    rw [crcShift_of_lsb (by rw [BitVec.getLsbD_ushiftRight]; exact h i hi), ← BitVec.shiftRight_add]
  calc crcShift8 c = crcShift8 (c >>> 0) := by rw [BitVec.ushiftRight_zero]
    _ = c >>> 8 := by
      rw [crcShift8, hstep 0 (by decide), hstep 1 (by decide), hstep 2 (by decide), hstep 3 (by decide),
        hstep 4 (by decide), hstep 5 (by decide), hstep 6 (by decide), hstep 7 (by decide)]

/-- A byte through the register: xor it in, then shift eight times (R102). -/
theorem crcByte_eq_shift8 (c : U16) (d : Byte) : crcByte c d = crcShift8 (c ^^^ d.setWidth 16) :=
  (crcByteWise_eq c d).symm

/-- The register's own low byte through it leaves the high byte. -/
theorem crcByte_crcLow (c : U16) : crcByte c (crcLow c) = c >>> 8 := by
  have hlow : ∀ i < 8, (c ^^^ (crcLow c).setWidth 16).getLsbD i = false := fun i hi => by
    have h16 : i < 16 := by omega
    simp [crcLow, hi, h16]
  rw [crcByte_eq_shift8, crcShift8_of_low_zero hlow, BitVec.ushiftRight_xor_distrib, byte_ushiftRight_eight,
    BitVec.xor_zero]

/-- The high byte through the register it is alone in leaves nothing. -/
theorem crcByte_crcHigh (c : U16) : crcByte (c >>> 8) (crcHigh c) = 0 := by
  have hhigh : (crcHigh c).setWidth 16 = c >>> 8 := by
    have hlt := c.isLt
    refine BitVec.eq_of_toNat_eq ?_
    rw [BitVec.toNat_setWidth, crcHigh_toNat, BitVec.toNat_ushiftRight, Nat.shiftRight_eq_div_pow]
    omega
  rw [crcByte_eq_shift8, hhigh, BitVec.xor_self]
  rfl

/-- Settles O11: the two CRC bytes take the register to 0. -/
theorem crcResidueIsZero : Obligations.CrcResidueIsZero := by
  intro s
  calc crc16 (s ++ crcBytes s) = crcFrom (crc16 s) (crcBytes s) := List.foldl_append
    _ = crcByte (crcByte (crc16 s) (crcLow (crc16 s))) (crcHigh (crc16 s)) := rfl
    _ = 0 := by rw [crcByte_crcLow, crcByte_crcHigh]

end Sys2Proof.Machine
end

section
/-!
Frames as the host writes them (30_encoding.md R81, R84) and as a dispatch finds them in the receive buffer
(43_commands.md R160).
-/

namespace Sys2Proof.Machine

/-! ### The operand values as numbers -/

theorem outSize_mod (p1 : Byte) : outSize p1 % 256 = p1.toNat := by
  have hlt := p1.isLt
  unfold outSize
  split
  · next h => rw [h]; rfl
  · exact Nat.mod_eq_of_lt hlt

theorem bufferSize_toNat (p2 p3 : Byte) : (bufferSize p2 p3).toNat = if p2.toNat = 1 then 256 else p3.toNat := by
  have hlt := p3.isLt
  have hone : p2 = 1 ↔ p2.toNat = 1 := BitVec.toNat_inj.symm
  rw [bufferSize_eq]
  simp only [hone]
  split
  · rfl
  · rw [BitVec.toNat_ofNat]
    omega

theorem addressOffset_toNat (p2 p3 : Byte) : (addressOffset p2 p3).toNat = p2.toNat * 256 + p3.toNat := by
  have h2 := p2.isLt
  have h3 := p3.isLt
  rw [addressOffset_eq, BitVec.toNat_ofNat]
  omega

/-- Settles O8. -/
theorem operandValuesAreUnsigned : Obligations.OperandValuesAreUnsigned := by
  refine ⟨fun p1 => ?_, bufferSize_toNat, addressOffset_toNat, fun p2 p3 => ?_, crcField_toNat, fun a1 a2 a3 => ?_⟩
  · obtain ⟨hlo, hhi⟩ := outSize_bounds p1
    exact ⟨hlo, hhi, outSize_mod p1⟩
  · rw [targetAddress_eq, BitVec.toNat_ofNat]
  · have hzero : ∀ b : Byte, b = 0 ↔ b.toNat = 0 := fun _ => BitVec.toNat_inj.symm
    rw [zeroArgs_iff, hzero, hzero, hzero]

/-! ### Host frames -/

/-- A span's own CRC verifies. -/
theorem verify_crcBytes (s : List Byte) : verify s (crcLow (crc16 s)) (crcHigh (crc16 s)) = true :=
  (verify_iff s _ _).2 ⟨rfl, rfl⟩

@[simp] theorem crcBytes_length (s : List Byte) : (crcBytes s).length = 2 := rfl

/-- The size READ_FLASH is written with is the size it asks for (R84). -/
theorem outSize_ofNat {n : Nat} (h1 : 1 ≤ n) (h256 : n ≤ 256) : outSize (BitVec.ofNat 8 n) = n := by
  obtain ⟨hlo, hhi⟩ := outSize_bounds (BitVec.ofNat 8 n)
  have hmod := outSize_mod (BitVec.ofNat 8 n)
  rw [BitVec.toNat_ofNat] at hmod
  omega

/-- The offset SET_ADDRESS is written with is the offset it sets (R84). -/
theorem addressOffset_crcHigh_crcLow (off : U16) : (addressOffset (crcHigh off) (crcLow off)).toNat = off.toNat := by
  rw [addressOffset_toNat, crcHigh_toNat, crcLow_toNat]
  omega

/-- SET_BUFFER as it is written for 256 bytes and for fewer (R84). -/
theorem hostBytes_setBuffer {n : Nat} (h : n ≤ 256) : ∃ x p2 p3,
    hostBytes (.setBuffer n) = withCrc [0xFE, x, p2, p3] ∧ (bufferSize p2 p3).toNat = n := by
  rw [hostBytes]
  split
  · next he => exact ⟨0x00, 0x01, 0x00, rfl, he.symm⟩
  · refine ⟨0x00, 0x00, BitVec.ofNat 8 n, rfl, ?_⟩
    rw [bufferSize_toNat, if_neg (by decide), BitVec.toNat_ofNat]
    omega

/-- Settles O6: each frame is its instruction's format with the span's own CRC. -/
theorem hostFramesDecodeWithGoodCrc : Obligations.HostFramesDecodeWithGoodCrc := by
  refine ⟨fun p1 => ?_, fun p1 => ?_, fun n h1 h256 => ?_, fun p1 => ?_, fun n hn => ?_, fun off => ?_,
    fun d hd => ?_, by decide⟩
  · exact ⟨_, _, decode_of_short _ (by simp), verify_crcBytes _⟩
  · exact ⟨_, _, decode_of_short _ (by simp), verify_crcBytes _⟩
  · exact ⟨_, _, _, decode_of_short _ (by simp), verify_crcBytes _, outSize_ofNat h1 h256⟩
  · exact ⟨_, _, decode_of_short _ (by simp), verify_crcBytes _⟩
  · obtain ⟨x, p2, p3, hbytes, hsize⟩ := hostBytes_setBuffer hn
    rw [hbytes]
    exact ⟨x, p2, p3, _, _, decode_of_short _ (by simp), verify_crcBytes _, hsize⟩
  · exact ⟨_, _, _, _, _, decode_of_short _ (by simp), verify_crcBytes _, addressOffset_crcHigh_crcLow off⟩
  · exact ⟨_, _, decode_payload_append hd _ _, verify_crcBytes d⟩

/-! ### The frame in the receive buffer -/

/-- Settles O42. -/
theorem stepRunsDecodedInstruction : Obligations.StepRunsDecodedInstruction := fun _ _ hf hs hi =>
  ⟨decodedIsWellFormed _ _ _ hi, step_dispatch hf hs hi⟩

/-- A frame decodes alike in the buffer that holds it (R77). -/
theorem decode_frameBuffer {f : List Byte} (hne : f ≠ []) (hlen : f.length ≤ 258) (m : FrameMode) :
    decode m (frameBuffer f).toList = decode m f := by
  have hbytes : frameByte (frameBuffer f).toList = frameByte f := by
    funext k
    rw [frameByte, frameBuffer_getD, frameByte]
    split
    · rfl
    · next hk => exact (List.getD_eq_default _ _ (by omega)).symm
  have hbuf : (frameBuffer f).toList.length = 258 := by simp
  exact decode_congr hbytes (List.ne_nil_of_length_eq_add_one hbuf) hne hbuf.le hlen m

/-- A command frame just received is what a dispatch decodes. -/
theorem State.withFrame_fetch (s : State) {f : List Byte} {i : Instr} (h : decode .command f = .ok i) :
    (s.withFrame f).fetch = .ok i := by
  obtain ⟨hne, hlen, -⟩ := decode_ok h
  exact (decode_frameBuffer hne hlen .command).trans h

theorem decodeTableWord_some {nbits w : Nat} {i : Instr} (h : decodeTableWord nbits w = some i) :
    decode .command (tableBytes nbits w) = .ok i := by
  unfold decodeTableWord at h
  split at h
  · next hd => rw [hd, Option.some.inj h]
  · cases h

/-- Settles O43. -/
theorem fetchWordIsRunNext : Obligations.FetchWordIsRunNext := fun s _ _ _ h =>
  step_dispatch rfl rfl (s.withFrame_fetch (decodeTableWord_some h))

end Sys2Proof.Machine
end

section
/-!
The commands one by one (43_commands.md sections 1 to 4): what each changes, what it answers and what it leaves alone;
the flash write read back (20_memory.md); and the fixed action of each error cause (60_exceptions.md).
-/

namespace Sys2Proof.Machine

/-! ### A write read back -/

/-- The bytes of one access have different addresses. -/
theorem flashAddress_injective {a : U32} {i j : Nat} (hi : i < 2 ^ 32) (hj : j < 2 ^ 32)
    (h : flashAddress a i = flashAddress a j) : i = j := by
  have hij : BitVec.ofNat 32 i = BitVec.ofNat 32 j := BitVec.add_right_inj a |>.1 (BitVec.eq_of_toNat_eq h)
  have hnat := congrArg BitVec.toNat hij
  rwa [BitVec.toNat_ofNat, BitVec.toNat_ofNat, Nat.mod_eq_of_lt hi, Nat.mod_eq_of_lt hj] at hnat

/-- After a write of a byte sequence each address of its range reads its byte. -/
theorem Memory.writeFrom_read_same (a : U32) (data : List Byte) : ∀ {i : Nat} {m : Memory}, m.wf →
    i + data.length ≤ 2 ^ 32 → ∀ {j : Nat} {b : Byte}, data[j]? = some b →
      (Memory.writeFrom a i data m).read (flashAddress a (i + j)) = b := by
  induction data with
  | nil => exact fun _ _ _ _ h => absurd h (by simp)
  | cons c data ih =>
    intro i m hm hlen j b hb
    rw [List.length_cons] at hlen
    rw [Memory.writeFrom]
    cases j with
    | zero =>
      have hlater : ∀ k, k < data.length → flashAddress a (i + 0) ≠ flashAddress a (i + 1 + k) := fun k hk he => by
        have := flashAddress_injective (by omega) (by omega) he
        omega
      rw [Memory.writeFrom_read_other a _ data hlater, Nat.add_zero, Memory.read_write_same hm]
      exact Option.some.inj hb
    | succ j =>
      rw [← Nat.add_assoc, Nat.add_right_comm]
      exact ih (Memory.write_wf hm (flashAddress_lt a i) c) (by omega) hb

theorem Memory.writeBytes_read_same {m : Memory} (hm : m.wf) (a : U32) {data : List Byte} (hlen : data.length ≤ 2 ^ 32)
    {i : Nat} {b : Byte} (h : data[i]? = some b) : (m.writeBytes a data).read (flashAddress a i) = b := by
  have := Memory.writeFrom_read_same a data (i := 0) hm (by omega) h
  rwa [Nat.zero_add] at this

/-- Byte `i` of a flash read is the byte at its address (R52). -/
theorem readBytes_getElem? (m : Memory) (a : U32) {n i : Nat} (hi : i < n) :
    (m.readBytes a n)[i]? = some (m.read (flashAddress a i)) := by
  rw [Memory.readBytes, List.getElem?_map, List.getElem?_range hi, Option.map_some]

/-- Settles O55. -/
theorem flashReadAfterWrite : Obligations.FlashReadAfterWrite := by
  intro m a data hm hlen
  refine List.ext_getElem? fun i => ?_
  rcases Nat.lt_or_ge i data.length with hi | hi
  · rw [readBytes_getElem? _ a hi, List.getElem?_eq_getElem hi]
    exact congrArg some (Memory.writeBytes_read_same hm a (by omega) (List.getElem?_eq_getElem hi))
  · rw [List.getElem?_eq_none hi, List.getElem?_eq_none (by rwa [readBytes_length])]

/-! ### The CRC check -/

/-- An instruction that carries a CRC runs behind the check of its span (R163). -/
theorem exec_of_crcSpan {i : Instr} {span : List Byte} {lo hi : Byte} (h : crcSpan i = some (span, lo, hi)) (s : State) :
    ∃ act, exec i s = .next (s.ifCrc span lo hi act) := by
  cases i with
  | run | readEeprom | unknown | deviceProbe => cases h
  | _ => cases h; exact ⟨_, rfl⟩

theorem State.ifCrc_of_good {span : List Byte} {lo hi : Byte} (hv : verify span lo hi = true) (act : State → State)
    (s : State) : s.ifCrc span lo hi act = act s := if_pos hv

theorem State.ifCrc_of_bad {span : List Byte} {lo hi : Byte} (hv : verify span lo hi = false) (act : State → State)
    (s : State) : s.ifCrc span lo hi act = s.send [Config.badCrc] := by
  rw [State.ifCrc, hv]
  rfl

/-- Settles O40. -/
theorem badCrcMutatesNothing : Obligations.BadCrcMutatesNothing := by
  intro i span lo hi s hspan hv
  obtain ⟨act, hact⟩ := exec_of_crcSpan hspan s
  obtain ⟨hflash, hreply, hregs⟩ := s.send_only_replies [Config.badCrc]
  exact ⟨_, hact.trans (congrArg _ (State.ifCrc_of_bad hv act s)), hregs, hflash, hreply⟩

/-! ### Every instruction -/

/-- A dispatch leaves the receive side, the pin, the timer and the peer alone. -/
theorem DispatchEffect.transportKept {s t : State} {i : Instr} (h : DispatchEffect s i t) : TransportKept s t := by
  cases h <;> exact ⟨rfl, rfl, rfl, rfl, rfl, rfl, rfl, rfl, rfl, rfl⟩

/-- A dispatch ends silently or with a reply about to be sent. -/
theorem DispatchEffect.ends {s t : State} {i : Instr} (h : DispatchEffect s i t) :
    t.seq = .jumpTest ∧ t.tx = s.tx ∨ t.seq = .reply ∧ ∃ r, t.tx = .enterTx r := by
  cases h with
  | jumps | ignores | flags | setsBuffer => exact .inl ⟨rfl, rfl⟩
  | _ => exact .inr ⟨rfl, _, rfl⟩

/-- Settles O41. -/
theorem everyInstructionCompletes : Obligations.EveryInstructionCompletes := by
  intro i s
  obtain ⟨t, ht, he⟩ := exec_effect i s
  exact ⟨t, ht, he.transportKept, he.ends⟩

/-! ### RUN, READ_EEPROM and the probe -/

/-- Settles O28. -/
theorem runRequestsJump : Obligations.RunRequestsJump := by
  intro a1 a2 a3 s
  refine ⟨_, rfl, ?_⟩
  simp only [zeroArgs_iff]
  split
  · exact ⟨State.conclude_endsSilently (s.setFail 101), .of_eq rfl rfl, rfl⟩
  · exact ⟨s.conclude_endsSilently, .of_eq rfl rfl, rfl⟩

/-- Settles O33. -/
theorem readEepromSetsTheFlag : Obligations.ReadEepromSetsTheFlag := fun s =>
  ⟨s.setEepromReq.conclude, rfl, rfl, .of_eq rfl rfl, State.conclude_endsSilently s.setEepromReq⟩

/-- The pin code is the port and the pin, four bits each (R204). -/
theorem pinCode_toNat : Config.pinCode.toNat = Config.pinPort.toNat * 16 + Config.pinNumber.toNat := by
  have hport := Config.pinPort.isLt
  have hpin := Config.pinNumber.isLt
  have hjoin : Config.pinPort.toNat <<< 4 ||| Config.pinNumber.toNat =
      Config.pinPort.toNat * 16 + Config.pinNumber.toNat := by
    rw [← Nat.shiftLeft_add_eq_or_of_lt hpin, Nat.shiftLeft_eq]
  have hshift : Config.pinPort.toNat <<< 4 < 2 ^ 8 := by rw [Nat.shiftLeft_eq]; omega
  rw [Config.pinCode, BitVec.toNat_or, BitVec.toNat_shiftLeft, BitVec.toNat_setWidth, BitVec.toNat_setWidth,
    Nat.mod_eq_of_lt (by omega : Config.pinPort.toNat < 2 ^ 8), Nat.mod_eq_of_lt hshift,
    Nat.mod_eq_of_lt (by omega : Config.pinNumber.toNat < 2 ^ 8), hjoin]

/-- Settles O39. -/
theorem probeAnswersIdentityRecord : Obligations.ProbeAnswersIdentityRecord := by
  intro p s
  obtain ⟨hflash, hreply, hregs⟩ := s.send_only_replies Config.devInfo
  exact ⟨s.send Config.devInfo, rfl, hregs, hflash, hreply, rfl, pinCode_toNat⟩

/-! ### The flash commands -/

theorem exec_progFlash_of_good {p1 lo hi : Byte} (hv : verify [0x01, p1] lo hi = true) (s : State) :
    exec (.progFlash p1 lo hi) s = .next s.program := congrArg _ (State.ifCrc_of_good hv _ s)

/-- A flash write with its answer leaves the transport alone and replies. -/
theorem State.memWrite_send_replies (s : State) (a : U32) (data r : List Byte) :
    Replies s ((s.memWrite a data).2.send r) r :=
  (s.memWrite a data).2.send_replies r

/-- A successful flash write stores its data. -/
theorem State.memWrite_read_same {s : State} (hm : s.flash.wf) (a : U32) {data : List Byte}
    (hlen : data.length ≤ 2 ^ 32) (hok : Config.flashWriteOk s.draws = true) {i : Nat} {b : Byte}
    (h : data[i]? = some b) : (s.memWrite a data).2.flash.read (flashAddress a i) = b := by
  rw [State.memWrite_eq, hok]
  exact Memory.writeBytes_read_same hm a hlen h

/-- Settles O29. -/
theorem progFlashWritesThePayload : Obligations.ProgFlashWritesThePayload := by
  intro p1 lo hi s hv hw hm
  rcases s.program_cases with ⟨-, e⟩ | ⟨hw', -⟩
  · refine ⟨_, exec_progFlash_of_good hv s, ?_⟩
    have hlen : s.storedPayload.length ≤ 2 ^ 32 := by rw [s.storedPayload_length]; omega
    rw [e]
    exact ⟨State.send_regs _ _, rfl, s.memWrite_send_replies _ _ _, fun x hx => State.memWrite_read_other hx,
      fun hok i b hb => State.memWrite_read_same hm _ hlen hok hb⟩
  · rw [hw] at hw'; cases hw'

/-- Settles O30, by the gate. -/
theorem gateDecidesProgFlash : Obligations.GateDecidesProgFlash := by
  intro p1 lo hi s hv
  refine ⟨_, exec_progFlash_of_good hv s, ?_⟩
  rcases s.program_cases with ⟨hw, e⟩ | ⟨hw, e⟩ <;> rw [e]
  · rw [if_neg (Nat.not_lt.2 ((writable_iff _).1 hw))]
    exact ⟨State.send_regs _ _, rfl⟩
  · rw [if_pos (Nat.lt_of_not_le (mt (writable_iff _).2 (Bool.eq_false_iff.1 hw)))]
    obtain ⟨hflash, hreply, hregs⟩ := s.send_only_replies [Config.nack]
    exact ⟨hregs, hreply, hflash⟩

theorem exec_eraseFlash_of_good {p1 lo hi : Byte} (hv : verify [0x02, p1] lo hi = true) (s : State) :
    exec (.eraseFlash p1 lo hi) s =
      .next (if writable s.currentAddress then s.send [Config.ack] else s.handleError .notWritable) :=
  congrArg _ (State.ifCrc_of_good hv _ s)

/-- Settles O31, by the gate. -/
theorem eraseFlashOnlyAcknowledges : Obligations.EraseFlashOnlyAcknowledges := by
  intro p1 lo hi s hv
  refine ⟨_, exec_eraseFlash_of_good hv s, ?_⟩
  simp only [← writable_iff]
  split
  · obtain ⟨hflash, hreply, hregs⟩ := s.send_only_replies [Config.ack]
    exact ⟨hregs, hflash, hreply⟩
  · obtain ⟨hflash, hreply, hregs⟩ := s.send_only_replies [Config.nack]
    exact ⟨hregs, hflash, hreply⟩

/-- A flash read with its answer leaves the transport alone and replies. -/
theorem State.memRead_send_replies (s : State) (a : U32) (n : Nat) (r : List Byte) :
    Replies s ((s.memRead a n).2.send r) r :=
  (s.memRead a n).2.send_replies r

/-- A read response ends with the CRC of its data, low byte first, and ACK (R203). -/
theorem readResponse_eq (d : List Byte) :
    readResponse d = d ++ [(crc16 d).extractLsb' 0 8, (crc16 d).extractLsb' 8 8, 0x30] :=
  List.append_assoc _ _ _

/-- Settles O32, by the CRC check. -/
theorem readFlashAnswersTheBytes : Obligations.ReadFlashAnswersTheBytes := by
  intro p1 lo hi s
  refine ⟨_, rfl, ?_⟩
  rcases s.ifCrc_cases [0x03, p1] lo hi _ with ⟨hv, e⟩ | ⟨hv, e⟩ <;> rw [e, hv]
  · refine ⟨rfl, fun _ => rfl, rfl, s.flash.readBytes s.currentAddress (outSize p1), readBytes_length _ _ _,
      fun i hi => ?_, ?_⟩
    · rw [readBytes_length] at hi
      exact readBytes_getElem? _ _ hi
    · rw [← readResponse_eq]
      exact s.memRead_send_replies _ _ _
  · obtain ⟨hflash, hreply, hregs⟩ := s.send_only_replies [Config.badCrc]
    exact ⟨hregs, hflash.1, hflash.2, hreply⟩

/-! ### The error causes -/

/-- Settles O44: for each cause its action, read off the operation it is. -/
theorem errorActionsMatchTheTable : Obligations.ErrorActionsMatchTheTable := by
  intro s
  refine ⟨⟨rfl, rfl⟩, ?_, ⟨rfl, rfl⟩, ⟨rfl, rfl⟩, ⟨rfl, s.send_replies _⟩, ⟨rfl, s.sendThen_replies _ _, rfl⟩,
    ⟨rfl, s.send_replies _⟩, ⟨rfl, s.send_replies _⟩, ⟨rfl, rfl⟩, fun e => ?_⟩
  · unfold State.handleError
    cases s.collect <;> exact ⟨rfl, rfl⟩
  · cases e with
    | noStart => unfold State.handleError; cases s.collect <;> exact .of_eq rfl rfl
    | _ => exact .of_eq rfl rfl

/-! ### The listening pin and the start of an assembly -/

/-- Settles O14. -/
theorem receiveLevelIsPeerOrPullUp : Obligations.ReceiveLevelIsPeerOrPullUp := by
  intro s hd
  unfold State.pinLevel
  rw [hd]
  exact ⟨fun h => by rw [h], fun h => by rw [h], fun h => by rw [h]⟩

/-- Settles O25. -/
theorem assemblyStartsCleared : Obligations.AssemblyStartsCleared := by
  intro s hs hf hrx
  refine ⟨s.beginAssembly, ?_, cleared_getD 258, rfl, rfl, rfl, hs, rfl, rfl, .of_eq rfl rfl⟩
  rw [step_assemble hf hs, State.assembleStep, hrx]

/-! ### HANDOFF and reset -/

/-- Settles O46, by the validator's free answer. -/
theorem handoffTransfersOrRefuses : Obligations.HandoffTransfersOrRefuses := by
  intro s hs hf
  refine ⟨s.handoff, step_handoff hf hs, ?_⟩
  unfold State.handoff
  cases Config.validatorTransfers s.draws
  · exact ⟨.of_eq rfl rfl, rfl, rfl, rfl, hf⟩
  · exact ⟨.of_eq rfl rfl, rfl, by simp [step]⟩

/-- Settles O49. -/
theorem resetValuesAreTheSpecs : Obligations.ResetValuesAreTheSpecs :=
  ⟨rfl, rfl, rfl, rfl, rfl, cleared_getD 256, cleared_getD 258, rfl, rfl, rfl, rfl, rfl⟩

/-- Settles O60: a reset is session start but for what goes on, and an interrupted write stays in its range. -/
theorem deviceResetDiscardsTheSession : Obligations.DeviceResetDiscardsTheSession := by
  intro s a n
  refine ⟨⟨rfl, rfl, rfl, rfl, rfl, rfl, rfl, .of_eq rfl rfl⟩, rfl, rfl, rfl, rfl, rfl, rfl, rfl, fun x hx => ?_⟩
  exact Memory.writeBytes_read_other (by rwa [List.length_map, List.length_range])

end Sys2Proof.Machine
end

section
/-!
The run of a reply (41_transport.md section 3, 44_responses.md): ten cells a byte, each driven at its time. Inside a
reply nothing but the pin, the place in `Send` and time moves, so a state of a reply is its first state with those four
fields replaced.
-/

namespace Sys2Proof.Machine

/-! ### Places inside a reply -/

/-- A reply's state with the pin an output at a level, at a place inside `Send`, some time later. -/
def State.sending (s : State) (out : Level) (tx : TxPhase) (d : Nat) : State :=
  { s with dir := .tx, lineOut := out, tx := tx, now := s.now + d }

/-- The place in `Send` before cell `c` of the byte `b`. -/
def cellPhase (c : Nat) (b : Byte) (rest : List Byte) : TxPhase :=
  if c = 0 then .startCell b rest else if c ≤ 8 then .dataCell (c - 1) b rest else .stopCell rest

theorem cellPhase_data {i : Nat} (hi : i < 8) (b : Byte) (rest : List Byte) :
    cellPhase (i + 1) b rest = .dataCell i b rest := by
  rw [cellPhase, if_neg (Nat.succ_ne_zero i), if_pos (Nat.succ_le_of_lt hi), Nat.add_sub_cancel]

/-- The start cell and the data cells: the level is driven for one bit time, and the next cell follows. -/
theorem replyStep_cell (s : State) (b : Byte) (rest : List Byte) {c : Nat} (hc : c ≤ 8) (out : Level) (d : Nat) :
    (s.sending out (cellPhase c b rest) d).replyStep =
      s.sending (charCell b c) (cellPhase (c + 1) b rest) (d + 52) := by
  cases c with
  | zero => rfl
  | succ i =>
    rw [cellPhase_data (by omega)]
    rcases Nat.lt_or_ge i 7 with hi | hi
    · rw [cellPhase_data (by omega)]
      simp only [State.replyStep, State.sending, if_pos hi]
      rfl
    · obtain rfl : i = 7 := by omega
      rfl

/-- The stop cell before another byte. -/
theorem replyStep_stop (s : State) (b b' : Byte) (rest : List Byte) (out : Level) (d : Nat) :
    (s.sending out (cellPhase 9 b (b' :: rest)) d).replyStep = s.sending true (cellPhase 0 b' rest) (d + 52) := rfl

/-- The last stop cell: `Send` goes on at once. -/
theorem replyStep_last_stop (s : State) (b : Byte) (out : Level) (d : Nat) :
    (s.sending out (cellPhase 9 b []) d).replyStep = s.sending true .enterRx d := rfl

/-- Every cell is driven at its level, as an output. -/
theorem replyStep_drives (s : State) (b : Byte) (rest : List Byte) {c : Nat} (hc : c ≤ 9) (out : Level) (d : Nat) :
    (s.sending out (cellPhase c b rest) d).replyStep.dir = .tx ∧
      (s.sending out (cellPhase c b rest) d).replyStep.lineOut = charCell b c := by
  rcases Nat.lt_or_ge c 9 with h | h
  · rw [replyStep_cell s b rest (by omega)]
    exact ⟨rfl, rfl⟩
  · obtain rfl : c = 9 := by omega
    cases rest <;> exact ⟨rfl, rfl⟩

/-! ### Runs inside a reply -/

/-- The block in a reply whose run has not ended. -/
def InReply (s : State) : Prop := s.seq = .reply ∧ s.transferred = false

theorem InReply.step_sending {s : State} (h : InReply s) (out : Level) (tx : TxPhase) (d : Nat) :
    step (s.sending out tx d) = .next (s.sending out tx d).replyStep := step_reply h.2 h.1

/-- The cells of a byte up to cell `c`. -/
theorem InReply.run_cells {s : State} (h : InReply s) (b : Byte) (rest : List Byte) {c : Nat} (hc : c ≤ 9) (out : Level)
    (d : Nat) : ∃ out', runSteps c (s.sending out (cellPhase 0 b rest) d) =
      some (s.sending out' (cellPhase c b rest) (d + 52 * c)) := by
  induction c with
  | zero => exact ⟨out, rfl⟩
  | succ c ih =>
    obtain ⟨out', hrun⟩ := ih (by omega)
    refine ⟨charCell b c, ?_⟩
    rw [runSteps_add, hrun, Option.bind_some, runSteps_succ (h.step_sending _ _ _), runSteps_zero,
      replyStep_cell s b rest (by omega)]
    rfl

/-- A byte before another, in ten steps. -/
theorem InReply.run_byte {s : State} (h : InReply s) (b b' : Byte) (rest : List Byte) (out : Level) (d : Nat) :
    runSteps 10 (s.sending out (cellPhase 0 b (b' :: rest)) d) =
      some (s.sending true (cellPhase 0 b' rest) (d + 520)) := by
  obtain ⟨out', hcells⟩ := h.run_cells b (b' :: rest) (Nat.le_refl 9) out d
  rw [runSteps_add 9 1, hcells, Option.bind_some, runSteps_succ (h.step_sending _ _ _), runSteps_zero,
    replyStep_stop]

/-- The bytes of a string up to byte `k`. -/
theorem InReply.run_bytes {s : State} (h : InReply s) {r : List Byte} {k : Nat} {b : Byte} (hk : r[k]? = some b)
    (out : Level) (d : Nat) : ∃ out', runSteps (10 * k) (s.sending out (nextByte r) d) =
      some (s.sending out' (cellPhase 0 b (r.drop (k + 1))) (d + 520 * k)) := by
  induction k generalizing r out d with
  | zero =>
    cases r with
    | nil => cases hk
    | cons b' rest => cases hk; exact ⟨out, rfl⟩
  | succ k ih =>
    obtain _ | ⟨b', _ | ⟨b'', rest⟩⟩ := r
    · cases hk
    · cases hk
    obtain ⟨out', hbytes⟩ := ih (r := b'' :: rest) hk true (d + 520)
    refine ⟨out', ?_⟩
    have hfirst : runSteps 10 (s.sending out (nextByte (b' :: b'' :: rest)) d) =
        some (s.sending true (nextByte (b'' :: rest)) (d + 520)) := h.run_byte b' b'' rest out d
    rw [Nat.mul_succ, Nat.add_comm, runSteps_add, hfirst, Option.bind_some, hbytes, Nat.mul_succ, Nat.add_assoc,
      Nat.add_comm 520]
    rfl

/-- From the begin of a reply to cell `c` of byte `k`: the settle delay, and ten cells for each byte before. -/
theorem InReply.run_to_cell {s : State} (h : InReply s) {r : List Byte} (hr : s.tx = .enterTx r) {k : Nat} {b : Byte}
    (hk : r[k]? = some b) {c : Nat} (hc : c ≤ 9) : ∃ out, runSteps (1 + 10 * k + c) s =
      some (s.sending out (cellPhase c b (r.drop (k + 1))) (52 * (1 + 10 * k + c))) := by
  have hsettle : s.replyStep = s.sending true (nextByte r) 52 := by rw [State.replyStep, hr]; rfl
  obtain ⟨out₁, hbytes⟩ := h.run_bytes hk true 52
  obtain ⟨out₂, hcells⟩ := h.run_cells b (r.drop (k + 1)) hc out₁ (52 + 520 * k)
  have htime : 52 * (1 + 10 * k + c) = 52 + 520 * k + 52 * c := by omega
  refine ⟨out₂, ?_⟩
  rw [runSteps_add, Nat.add_comm 1, runSteps_succ (step_reply h.2 h.1), hsettle, hbytes, Option.bind_some, hcells,
    Nat.add_comm (10 * k), htime]

/-- Settles O24. -/
theorem replyDrivesEveryCell : Obligations.ReplyDrivesEveryCell := by
  intro s r k c b hs hf hr hk hc
  have h : InReply s := ⟨hs, hf⟩
  obtain ⟨out, hrun⟩ := h.run_to_cell hr hk hc
  obtain ⟨hdir, hlevel⟩ := replyStep_drives s b (r.drop (k + 1)) hc out (52 * (1 + 10 * k + c))
  exact ⟨_, _, hrun, rfl, h.step_sending _ _ _, hdir, hlevel⟩

/-! ### The end of a reply -/

/-- From the begin of a reply to its closing `EnterRX()`: after the last stop level there is no delay (D28). -/
theorem InReply.run_to_enterRx {s : State} (h : InReply s) {r : List Byte} (hr : s.tx = .enterTx r) (hne : r ≠ []) :
    runSteps (10 * r.length + 1) s = some (s.sending true .enterRx (520 * r.length)) := by
  have hpos := List.length_pos_of_ne_nil hne
  have hlast : r[r.length - 1]? = some (r[r.length - 1]'(by omega)) := List.getElem?_eq_getElem _
  obtain ⟨out, hrun⟩ := h.run_to_cell hr hlast (Nat.le_refl 9)
  rw [List.drop_eq_nil_of_le (by omega)] at hrun
  rw [show 10 * r.length + 1 = 1 + 10 * (r.length - 1) + 9 + 1 by omega, runSteps_add, hrun, Option.bind_some,
    runSteps_succ (h.step_sending _ _ _), runSteps_zero, replyStep_last_stop,
    show 52 * (1 + 10 * (r.length - 1) + 9) = 520 * r.length by omega]

/-- What is left when a reply of `n` bytes is over: what waited for `Send` is done, some time later. -/
def State.replied (s : State) (n : Nat) : State := (s.sending true .enterRx (520 * n)).finishReply

/-- A whole reply. -/
theorem InReply.run_reply {s : State} (h : InReply s) {r : List Byte} (hr : s.tx = .enterTx r) (hne : r ≠ []) :
    runSteps (10 * r.length + 2) s = some (s.replied r.length) := by
  rw [show 10 * r.length + 2 = 10 * r.length + 1 + 1 from rfl, runSteps_add, h.run_to_enterRx hr hne, Option.bind_some,
    runSteps_succ (h.step_sending _ _ _), runSteps_zero]
  rfl

/-- Before its last step a reply is still being sent, with the registers as they were. -/
theorem InReply.run_inside {s : State} (h : InReply s) {r : List Byte} (hr : s.tx = .enterTx r) (hne : r ≠ [])
    {j : Nat} (hj : j < 10 * r.length + 2) {u : State} (hu : runSteps j s = some u) : u.seq = .reply ∧ u.regs = s.regs := by
  have sending_inside : ∀ {out tx d}, runSteps j s = some (s.sending out tx d) → u.seq = .reply ∧ u.regs = s.regs :=
    fun hrun => by cases hu.symm.trans hrun; exact ⟨h.1, rfl⟩
  obtain rfl | hpos := Nat.eq_zero_or_pos j
  · cases hu; exact ⟨h.1, rfl⟩
  rcases Nat.lt_or_ge j (10 * r.length + 1) with hlt | hge
  · have hbyte : r[(j - 1) / 10]? = some (r[(j - 1) / 10]'(by omega)) := List.getElem?_eq_getElem _
    obtain ⟨out, hrun⟩ := h.run_to_cell hr hbyte (Nat.le_of_lt_succ (Nat.mod_lt (j - 1) (by decide)))
    rw [show 1 + 10 * ((j - 1) / 10) + (j - 1) % 10 = j by omega] at hrun
    exact sending_inside hrun
  · obtain rfl : j = 10 * r.length + 1 := by omega
    exact sending_inside (h.run_to_enterRx hr hne)

theorem State.replied_regs (s : State) (n : Nat) : (s.replied n).regs = { s.regs with
    payloadExpected := s.afterSend.expected s.payloadExpected, failScore := s.afterSend.score s.failScore } := rfl

theorem State.replied_flashKept (s : State) (n : Nat) : FlashKept s (s.replied n) := .of_eq rfl rfl

theorem State.replied_transferred (s : State) (n : Nat) : (s.replied n).transferred = s.transferred := rfl

theorem State.replied_failScore (s : State) (n : Nat) : (s.replied n).failScore = s.afterSend.score s.failScore := rfl

theorem FlashKept.trans {s t u : State} (hst : FlashKept s t) (htu : FlashKept t u) : FlashKept s u :=
  ⟨fun a => (htu.1 a).trans (hst.1 a), htu.2.trans hst.2⟩

/-- Settles O23. -/
theorem replyTakesTenCellsPerByte : Obligations.ReplyTakesTenCellsPerByte := by
  intro s r hs hf hr hne
  have h : InReply s := ⟨hs, hf⟩
  refine ⟨fun k u hk hu => h.run_inside hr hne hk hu, s.replied r.length, h.run_reply hr hne, rfl, rfl, rfl, rfl, rfl,
    rfl, s.replied_flashKept _, ?_⟩
  rw [State.replied_regs]
  cases s.afterSend <;> rfl

/-! ### The two dispatches that do something after their reply -/

/-- A reply of one byte takes twelve steps. -/
theorem InReply.run_one_byte {s : State} (h : InReply s) {b : Byte} (hr : s.tx = .enterTx [b]) :
    (∀ k v, k < 12 → runSteps k s = some v → v.seq = .reply ∧ v.regs = s.regs) ∧
      runSteps 12 s = some (s.replied 1) := by
  have hsteps : 10 * [b].length + 2 = 12 := rfl
  rw [← hsteps]
  exact ⟨fun k v hk hv => h.run_inside hr (List.cons_ne_nil b []) hk hv, h.run_reply hr (List.cons_ne_nil b [])⟩

/-- Settles O37: the reply's twelve steps, and the count at its return. -/
theorem unknownCommandCounts : Obligations.UnknownCommandCounts := by
  intro c s
  have hregs := s.sendThen_regs .countUnknown [Config.nack]
  have hflash : FlashKept s (s.sendThen .countUnknown [Config.nack]) := .of_eq rfl rfl
  refine ⟨s.sendThen .countUnknown [Config.nack], rfl, hflash, s.sendThen_replies _ _, hregs, fun hf => ?_⟩
  have h : InReply (s.sendThen .countUnknown [Config.nack]) := ⟨rfl, hf⟩
  obtain ⟨hinside, hrun⟩ := h.run_one_byte rfl
  rw [hregs] at hinside
  refine ⟨hinside, _, hrun, rfl, hflash.trans (State.replied_flashKept _ _), ?_⟩
  rw [State.replied_regs, hregs, BitVec.ofNat_add, BitVec.ofNat_toNat, BitVec.setWidth_eq]
  rfl

/-- The payload buffer after an accepted payload of at most 256 bytes holds it, and zeros after it. -/
theorem payloadImage_getD_of_le {data : List Byte} (h : data.length ≤ 256) (k : Nat) :
    (payloadImage data).toList.getD k 0 = data.getD k 0 := by
  rw [payloadImage_getD]
  split
  · rfl
  · exact (List.getD_eq_default _ _ (by omega)).symm

/-- Settles O38: the reply's twelve steps, and the end of payload mode at its return. -/
theorem goodPayloadIsCaptured : Obligations.GoodPayloadIsCaptured := by
  intro data lo hi s hlen hv
  have hflash : FlashKept s (s.acceptPayload data) := .of_eq rfl rfl
  refine ⟨s.acceptPayload data, congrArg _ (State.ifCrc_of_good hv _ s), hflash,
    State.sendThen_replies _ _ _, payloadImage_getD_of_le hlen, rfl, fun hf => ?_⟩
  have h : InReply (s.acceptPayload data) := ⟨rfl, hf⟩
  obtain ⟨hinside, hrun⟩ := h.run_one_byte rfl
  exact ⟨hinside, _, hrun, rfl, hflash.trans (State.replied_flashKept _ _), State.replied_regs _ _⟩

/-! ### Unknown commands one after the other -/

/-- An unknown command served to the end of its reply adds 1 to the score. -/
theorem serve_unknown (c : Byte) {s : State} (hf : s.transferred = false) :
    ∃ t, serve (.unknown c) s = some t ∧ t.failScore = s.failScore + 1 ∧ t.transferred = false := by
  have h : InReply (s.sendThen .countUnknown [Config.nack]) := ⟨rfl, hf⟩
  obtain ⟨-, hrun⟩ := h.run_one_byte rfl
  exact ⟨_, hrun, State.replied_failScore _ _, (State.replied_transferred _ _).trans hf⟩

/-- A list of unknown commands adds its length to the score. -/
theorem serveAll_unknown (codes : List Byte) : ∀ {s : State}, s.transferred = false →
    ∃ t, serveAll (codes.map .unknown) s = some t ∧ t.failScore = s.failScore + BitVec.ofNat 16 codes.length := by
  induction codes with
  | nil => exact fun {s} _ => ⟨s, rfl, (BitVec.add_zero _).symm⟩
  | cons c codes ih =>
    intro s hf
    obtain ⟨u, hu, hscore, hf'⟩ := serve_unknown c hf
    obtain ⟨t, ht, hscore'⟩ := ih hf'
    refine ⟨t, ?_, ?_⟩
    · rw [List.map_cons, serveAll, hu, Option.bind_some, ht]
    · rw [hscore', hscore, List.length_cons, Nat.add_comm codes.length, BitVec.ofNat_add, BitVec.add_assoc]
      rfl

/-- Settles O47. -/
theorem hundredAndFirstUnknownRequestsJump : Obligations.HundredAndFirstUnknownRequestsJump := by
  intro codes s h0 hf hlen
  obtain ⟨t, ht, hscore⟩ := serveAll_unknown codes hf
  have hzero : s.failScore = 0#16 := h0
  have hnat : t.failScore.toNat = codes.length := by
    rw [hscore, hzero, BitVec.zero_add, BitVec.toNat_ofNat, Nat.mod_eq_of_lt hlen]
  refine ⟨t, ht, hnat, ?_⟩
  rw [Bool.eq_iff_iff, t.jumpRequested_iff, hnat, decide_eq_true_iff]

end Sys2Proof.Machine
end

section
/-!
The run of `read_byte` (41_transport.md section 2) on a line of which the level is known, and what assembly makes of it
(42_assembly.md). First each kind of step, in terms of the level on the line; then the runs: polls that only wait, and
the samples of a character.
-/

namespace Sys2Proof.Machine

/-! ### One step of `read_byte`, by the level on the line -/

section
variable {s : State}

theorem step_enter (h : ListensAt s .enter) : step s = .next (s.timerReset.readAt .idleWait) := step_reading h

theorem step_idle_high (h : ListensAt s .idleWait) (hl : lineAt s s.now = true) :
    step s = .next (s.readAt .startWait) := by
  rw [step_reading h, readByteStep, h.pinLevel, hl]
  rfl

theorem step_idle_low (h : ListensAt s .idleWait) (hl : lineAt s s.now = false) (he : s.elapsed.toNat ≤ 20000) :
    step s = .next (s.wait 1) := by
  have hle : ¬ Config.timing.tIdle < s.elapsed.toNat := Nat.not_lt.2 he
  rw [step_reading h, readByteStep, h.pinLevel, hl, if_neg Bool.false_ne_true, if_neg hle]
  rfl

theorem step_idle_over (h : ListensAt s .idleWait) (hl : lineAt s s.now = false) (he : 20000 < s.elapsed.toNat) :
    step s = .next (s.setFail 101).abort := by
  refine step_idleTimeout h (u := s) ?_
  rw [readByteStep, h.pinLevel, hl, if_neg Bool.false_ne_true]
  exact if_pos he

theorem step_start_low (h : ListensAt s .startWait) (hl : lineAt s s.now = false) :
    step s = .next (s.readAt .startCheck) := by
  rw [step_reading h, readByteStep, h.pinLevel, hl]
  rfl

theorem step_start_high (h : ListensAt s .startWait) (hl : lineAt s s.now = true)
    (hq : ¬ (s.msgRcvd = true ∧ 250 < s.elapsed.toNat)) : step s = .next (s.wait 1) := by
  rw [step_reading h, readByteStep, h.pinLevel, hl, if_neg (show ¬ true = false by decide)]
  exact congrArg (Host.Outcome.next ∘ assemblyReceive) (if_neg hq)

theorem step_start_over (h : ListensAt s .startWait) (hl : lineAt s s.now = true) (hm : s.msgRcvd = true)
    (he : 250 < s.elapsed.toNat) : step s = .next (s.handleError .noStart) := by
  rw [step_reading h, readByteStep, h.pinLevel, hl, if_neg (show ¬ true = false by decide)]
  exact congrArg (Host.Outcome.next ∘ assemblyReceive) (if_pos ⟨hm, he⟩)

theorem step_startCheck_low (h : ListensAt s .startCheck) (hl : lineAt s (s.now + 26) = false) :
    step s = .next ((s.wait 26).readAt (.dataBit 0 0)) := by
  have hpin : (s.wait Config.timing.tHalf).pinLevel = false := (h.pinLevel_wait 26).trans hl
  rw [step_reading h, readByteStep, hpin]
  rfl

theorem step_startCheck_high (h : ListensAt s .startCheck) (hl : lineAt s (s.now + 26) = true) :
    step s = .next (s.wait 26).abort := by
  have hpin : (s.wait Config.timing.tHalf).pinLevel = true := (h.pinLevel_wait 26).trans hl
  rw [step_reading h, readByteStep, hpin]
  rfl

theorem step_dataBit {i : Nat} {d : Byte} (h : ListensAt s (.dataBit i d)) :
    step s = .next ((s.wait 52).readAt (if i < 7 then .dataBit (i + 1) (putBit d i (lineAt s (s.now + 52)))
      else .stopCheck (putBit d i (lineAt s (s.now + 52))))) := by
  rw [step_reading h, ← h.pinLevel_wait 52]
  rfl

theorem step_stopCheck_high {b : Byte} (h : ListensAt s (.stopCheck b)) (hl : lineAt s (s.now + 52) = true) :
    step s = .next ((s.wait 52).storeByte b).afterStore := by
  have hpin : (s.wait Config.timing.tBit).pinLevel = true := (h.pinLevel_wait 52).trans hl
  rw [step_reading h, readByteStep, hpin]
  rfl

theorem step_stopCheck_low {b : Byte} (h : ListensAt s (.stopCheck b)) (hl : lineAt s (s.now + 52) = false) :
    step s = .next (s.wait 52).abort := by
  have hpin : (s.wait Config.timing.tBit).pinLevel = false := (h.pinLevel_wait 52).trans hl
  rw [step_reading h, readByteStep, hpin]
  rfl

end

/-! ### Polls that only wait -/

theorem ListensAt.wait {s : State} {p : ReadPhase} (h : ListensAt s p) (d : Nat) : ListensAt (s.wait d) p := h

theorem ListensAt.readAt {s : State} {p : ReadPhase} (h : ListensAt s p) (q : ReadPhase) : ListensAt (s.readAt q) q :=
  ⟨h.1, h.2.1, rfl, h.2.2.2⟩

theorem ListensAt.timerReset {s : State} {p : ReadPhase} (h : ListensAt s p) : ListensAt s.timerReset p := h

theorem State.wait_wait (s : State) (c d : Nat) : (s.wait c).wait d = s.wait (c + d) :=
  congrArg (fun t => { s with now := t }) (Nat.add_assoc s.now c d)

/-- Steps that each wait one poll interval. -/
theorem runSteps_wait {s : State} {k : Nat} (h : ∀ d < k, step (s.wait d) = .next (s.wait (d + 1))) :
    runSteps k s = some (s.wait k) := by
  induction k with
  | zero => rfl
  | succ k ih =>
    rw [runSteps_add k 1, ih fun d hd => h d (Nat.lt_succ_of_lt hd), Option.bind_some,
      runSteps_succ (h k (Nat.lt_succ_self k)), runSteps_zero]

/-- Settles O18. -/
theorem quietLineWaitsForever : Obligations.QuietLineWaitsForever := by
  intro s k h hm hl
  refine runSteps_wait fun d hd => step_start_high (h.wait d) (hl d hd) ?_
  rw [State.wait_msgRcvd, hm]
  exact fun hq => absurd hq.1 Bool.false_ne_true

/-- The timer counts from its last reset. -/
theorem elapsed_wait_timerReset (s : State) (p : ReadPhase) {d : Nat} (hd : d < 2 ^ 32) :
    ((s.timerReset.readAt p).wait d).elapsed.toNat = d := by
  have hnow : s.now + d - s.now = d := Nat.add_sub_cancel_left _ _
  rw [State.elapsed, BitVec.toNat_ofNat]
  exact (congrArg (· % 2 ^ 32) hnow).trans (Nat.mod_eq_of_lt hd)

/-- With the line low, `read_byte` polls for an idle line until the timeout. -/
theorem ListensAt.run_idle {s : State} (h : ListensAt s .enter) {k : Nat} (hk : k ≤ 20001)
    (hl : ∀ d, d < k → lineAt s (s.now + d) = false) :
    runSteps (k + 1) s = some ((s.timerReset.readAt .idleWait).wait k) := by
  rw [runSteps_succ (step_enter h)]
  refine runSteps_wait fun d hd => step_idle_low ((h.timerReset.readAt _).wait d) (hl d hd) ?_
  rw [elapsed_wait_timerReset s _ (by omega)]
  omega

/-- Settles O15: 20,001 polls only wait, and at the next one the timeout is over. -/
theorem lowLineTimesOutAfterTwentyMs : Obligations.LowLineTimesOutAfterTwentyMs := by
  intro s h hl
  have hrun : ∀ k, k ≤ 20001 → runSteps (k + 1) s = some ((s.timerReset.readAt .idleWait).wait k) :=
    fun k hk => h.run_idle hk fun d hd => hl d (by omega)
  have hover : step ((s.timerReset.readAt .idleWait).wait 20001) =
      .next (((s.timerReset.readAt .idleWait).wait 20001).setFail 101).abort := by
    refine step_idle_over ((h.timerReset.readAt _).wait _) (hl 20001 (Nat.le_refl _)) ?_
    rw [elapsed_wait_timerReset s _ (by decide)]
    decide
  refine ⟨(((s.timerReset.readAt .idleWait).wait 20001).setFail 101).abort, ?_, rfl, rfl, by simp,
    .of_eq (by simp) (by simp), fun k u hk hu => ?_⟩
  · rw [runSteps_add 20002 1, hrun 20001 (Nat.le_refl _), Option.bind_some, runSteps_succ hover, runSteps_zero]
  · cases k with
    | zero => cases hu; exact ⟨h.1, rfl⟩
    | succ k => cases (hrun k (by omega)).symm.trans hu; exact ⟨h.1, rfl⟩

/-- With the line high, `read_byte` enters the start wait at once and polls until the gap is over. -/
theorem ListensAt.run_gap {s : State} (h : ListensAt s .enter) {k : Nat} (hk : k ≤ 251)
    (hl : ∀ d, d ≤ 251 → lineAt s (s.now + d) = true) :
    runSteps (k + 2) s = some ((s.timerReset.readAt .startWait).wait k) := by
  have hidle : step (s.timerReset.readAt .idleWait) = .next (s.timerReset.readAt .startWait) :=
    step_idle_high (h.timerReset.readAt _) (hl 0 (by decide))
  rw [runSteps_succ (step_enter h), runSteps_succ hidle]
  refine runSteps_wait fun d hd => step_start_high ((h.timerReset.readAt _).wait d) (hl d (by omega)) ?_
  rw [elapsed_wait_timerReset s _ (by omega)]
  omega

/-- A gap after at least one byte ends in NoStart. -/
theorem ListensAt.run_noStart {s : State} (h : ListensAt s .enter) (hm : s.msgRcvd = true)
    (hl : ∀ d, d ≤ 251 → lineAt s (s.now + d) = true) :
    runSteps 254 s = some (((s.timerReset.readAt .startWait).wait 251).handleError .noStart) := by
  have hover : step ((s.timerReset.readAt .startWait).wait 251) =
      .next (((s.timerReset.readAt .startWait).wait 251).handleError .noStart) := by
    refine step_start_over ((h.timerReset.readAt _).wait _) (hl 251 (Nat.le_refl _)) hm ?_
    rw [elapsed_wait_timerReset s _ (by decide)]
    decide
  rw [runSteps_add 253 1, h.run_gap (Nat.le_refl _) hl, Option.bind_some, runSteps_succ hover, runSteps_zero]

theorem handleError_noStart_command {s : State} (h : s.collect = .command) :
    s.handleError .noStart = s.complete := by rw [State.handleError, h]

theorem handleError_noStart_payload {s : State} {n : Nat} (h : s.collect = .payload n) :
    s.handleError .noStart = s.abort := by rw [State.handleError, h]

/-- Settles O16. -/
theorem gapCompletesCommandMessage : Obligations.GapCompletesCommandMessage := by
  intro s h hm hc hl
  have hrun := h.run_noStart hm hl
  rw [handleError_noStart_command (s := (s.timerReset.readAt .startWait).wait 251) hc] at hrun
  refine ⟨_, hrun, rfl, rfl, by simp, by simp, by simp, fun k u hk hu => ?_⟩
  match k with
  | 0 => cases hu; exact h.1
  | 1 => rw [runSteps_succ (step_enter h)] at hu; cases hu; exact h.1
  | k + 2 => cases (h.run_gap (by omega) hl).symm.trans hu; exact h.1

/-- Settles O17. -/
theorem gapAbortsPayload : Obligations.GapAbortsPayload := by
  intro s n h hm hc hl
  have hrun := h.run_noStart hm hl
  rw [handleError_noStart_payload (s := (s.timerReset.readAt .startWait).wait 251) hc] at hrun
  exact ⟨_, hrun, rfl, rfl, by simp, .of_eq (by simp) (by simp)⟩

/-! ### A character -/

/-- The bits of a byte sampled before bit `i`. -/
def lowBits (b : Byte) : Nat → Byte
  | 0 => 0
  | i + 1 => putBit (lowBits b i) i (b.getLsbD i)

theorem putBit_getLsbD (d : Byte) {i : Nat} (hi : i < 8) (v : Level) (j : Nat) :
    (putBit d i v).getLsbD j = (d.getLsbD j || (v && decide (i = j))) := by
  unfold putBit
  cases v
  · simp
  · rw [if_pos rfl, ← BitVec.twoPow_eq, BitVec.getLsbD_or, BitVec.getLsbD_twoPow, decide_eq_true hi]

theorem lowBits_getLsbD (b : Byte) {i : Nat} (hi : i ≤ 8) (j : Nat) :
    (lowBits b i).getLsbD j = (decide (j < i) && b.getLsbD j) := by
  induction i with
  | zero => simp [lowBits]
  | succ i ih =>
    rw [lowBits, putBit_getLsbD _ hi, ih (by omega)]
    rcases Nat.lt_trichotomy j i with h | rfl | h
    · simp [h, Nat.lt_succ_of_lt h, Nat.ne_of_gt h]
    · simp
    · simp [Nat.not_lt.2 h.le, Nat.not_lt.2 (Nat.succ_le_of_lt h), Nat.ne_of_lt h]

/-- All eight bits are the byte. -/
theorem lowBits_eight (b : Byte) : lowBits b 8 = b := by
  refine BitVec.eq_of_getLsbD_eq fun j hj => ?_
  rw [lowBits_getLsbD b (Nat.le_refl 8), decide_eq_true hj, Bool.true_and]

theorem charCell_succ (b : Byte) {i : Nat} (hi : i < 8) : charCell b (i + 1) = b.getLsbD i := by
  rw [charCell, if_neg (Nat.succ_ne_zero i), if_pos (Nat.succ_le_of_lt hi), Nat.add_sub_cancel]

/-- The place inside `read_byte` after `i` data bits of a byte. -/
def bitPhase (b : Byte) (i : Nat) : ReadPhase := if i < 8 then .dataBit i (lowBits b i) else .stopCheck b

/-- The sample of data bit `i`. -/
theorem step_bitPhase {s : State} {b : Byte} {i : Nat} (hi : i < 8) (h : ListensAt s (bitPhase b i))
    (hl : lineAt s (s.now + 52) = b.getLsbD i) : step s = .next ((s.wait 52).readAt (bitPhase b (i + 1))) := by
  have hphase : bitPhase b i = .dataBit i (lowBits b i) := if_pos hi
  rw [hphase] at h
  rw [step_dataBit h, hl]
  rcases Nat.lt_or_ge i 7 with h7 | h7
  · rw [if_pos h7, bitPhase, if_pos (by omega)]
    rfl
  · obtain rfl : i = 7 := by omega
    rw [if_neg (Nat.lt_irrefl 7), bitPhase, if_neg (Nat.lt_irrefl 8)]
    exact congrArg (fun d => Host.Outcome.next ((s.wait 52).readAt (.stopCheck d))) (lowBits_eight b)

/-- The detected edge, the start check and the first `i` data bits of a character. -/
theorem ListensAt.run_character {s : State} (h : ListensAt s .startWait) {b : Byte}
    (hl : ∀ k d, k ≤ 8 → d < 52 → lineAt s (s.now + 52 * k + d) = charCell b k) {i : Nat} (hi : i ≤ 8) :
    runSteps (2 + i) s = some ((s.wait (26 + 52 * i)).readAt (bitPhase b i)) := by
  induction i with
  | zero =>
    have hedge := step_start_low h (hl 0 0 (by decide) (by decide))
    have hcheck := step_startCheck_low (h.readAt .startCheck) (hl 0 26 (by decide) (by decide))
    rw [runSteps_succ hedge, runSteps_succ hcheck]
    rfl
  | succ i ih =>
    have hsample : lineAt s (s.now + (26 + 52 * i) + 52) = b.getLsbD i := by
      rw [← charCell_succ b (by omega), ← hl (i + 1) 26 hi (by decide)]
      congr 1
      omega
    have hstep := step_bitPhase (by omega) ((h.wait (26 + 52 * i)).readAt (bitPhase b i)) hsample
    rw [← Nat.add_assoc, runSteps_add (2 + i) 1, ih (by omega), Option.bind_some, runSteps_succ hstep, runSteps_zero]
    have hwait : s.wait (26 + 52 * (i + 1)) = (s.wait (26 + 52 * i)).wait 52 := by
      rw [State.wait_wait]
      congr 1
    rw [hwait]
    rfl

/-- A character up to its stop sample. -/
theorem ListensAt.run_to_stopCheck {s : State} (h : ListensAt s .startWait) {b : Byte}
    (hl : ∀ k d, k ≤ 8 → d < 52 → lineAt s (s.now + 52 * k + d) = charCell b k) :
    runSteps 10 s = some ((s.wait 442).readAt (.stopCheck b)) := h.run_character hl (Nat.le_refl 8)

/-- After a byte is stored, whatever follows, the byte stands in the buffer and is counted, and the flash is kept. -/
theorem State.afterStore_keeps (s : State) : s.afterStore.now = s.now ∧ s.afterStore.rxbuf = s.rxbuf ∧
    s.afterStore.rxCount = s.rxCount ∧ s.afterStore.msgRcvd = s.msgRcvd ∧ FlashKept s s.afterStore := by
  rcases s.afterStore_cases with ⟨-, -, e⟩ | ⟨-, -, e⟩ | ⟨n, -, -, e⟩ | ⟨n, -, -, e⟩ <;> rw [e] <;>
    exact ⟨rfl, rfl, rfl, rfl, .of_eq rfl rfl⟩

/-- Settles O19. -/
theorem characterOnLineIsReceived : Obligations.CharacterOnLineIsReceived := by
  intro s b h _ hl
  have hrun := h.run_to_stopCheck fun k d hk => hl k d (by omega)
  have hstop := step_stopCheck_high ((h.wait 442).readAt (.stopCheck b)) (hl 9 26 (by decide) (by decide))
  obtain ⟨hnow, hbuf, hcount, hrcvd, hflash⟩ :=
    State.afterStore_keeps (((((s.wait 442).readAt (.stopCheck b)).wait 52).storeByte b))
  refine ⟨_, ?_, hnow, hbuf, hcount, hrcvd, hflash⟩
  rw [runSteps_add 10 1, hrun, Option.bind_some, runSteps_succ hstop, runSteps_zero]

/-- Settles O20: a low stop sample, and a high start check. -/
theorem misframedCharacterAborts : Obligations.MisframedCharacterAborts := by
  refine ⟨fun s b h hl hstop => ?_, fun s h hlow hhigh => ?_⟩
  · have habort := step_stopCheck_low ((h.wait 442).readAt (.stopCheck b)) hstop
    refine ⟨(((s.wait 442).readAt (.stopCheck b)).wait 52).abort, ?_, rfl, rfl, by simp, by simp, by simp,
      .of_eq (by simp) (by simp)⟩
    rw [runSteps_add 10 1, h.run_to_stopCheck hl, Option.bind_some, runSteps_succ habort, runSteps_zero]
  · have habort := step_startCheck_high (h.readAt .startCheck) hhigh
    refine ⟨((s.readAt .startCheck).wait 26).abort, ?_, rfl, rfl, by simp, by simp, by simp,
      .of_eq (by simp) (by simp)⟩
    rw [runSteps_succ (step_start_low h hlow), runSteps_succ habort, runSteps_zero]

/-! ### What assembly makes of an outcome -/

/-- A framing error is found by a sample that only waits, and aborts (R144). -/
theorem step_framingError {s u : State} {p : ReadPhase} {r : ReadOutcome} (h : ListensAt s p)
    (hr : readByteStep p s = .done r u) (hf : r = .badStart ∨ r = .badStop) : ∃ d, step s = .next (s.wait d).abort := by
  rw [step_reading h, hr]
  rcases readByteStep_done hr with ⟨-, rfl, -⟩ | ⟨-, rfl, -, -⟩ | ⟨-, rfl, rfl⟩ | ⟨b, -, rfl | rfl, rfl⟩
  · exact absurd hf (by decide)
  · exact absurd hf (by decide)
  · exact ⟨_, rfl⟩
  · exact absurd hf nofun
  · exact ⟨_, rfl⟩

/-- From the jump test, with the jump not requested, two steps begin the next assembly. -/
theorem run_jumpTest_to_assembly {s : State} (hs : s.seq = .jumpTest) (hf : s.transferred = false)
    (hj : s.failScore.toNat ≤ 100) : runSteps 2 s = some s.nextCycle.beginAssembly := by
  have hnext : s.jumpTest = s.nextCycle := by
    rcases s.jumpTest_cases with ⟨hreq, -⟩ | ⟨-, e⟩
    · exact absurd (s.jumpRequested_iff.1 hreq) (Nat.not_lt.2 hj)
    · exact e
  have hbegin : step s.nextCycle = .next s.nextCycle.beginAssembly := step_assemble hf rfl
  rw [runSteps_succ (step_jumpTest hf hs), hnext, runSteps_succ hbegin, runSteps_zero]

/-- Settles O21. -/
theorem framingErrorAbortsSilently : Obligations.FramingErrorAbortsSilently := by
  intro s u p r h hr hf
  obtain ⟨d, hstep⟩ := step_framingError h hr hf
  obtain ⟨-, -, -, htr⟩ := h
  refine ⟨(s.wait d).abort, hstep, rfl, rfl, rfl, rfl, rfl, .of_eq rfl rfl, fun hj => ?_⟩
  have hrun := run_jumpTest_to_assembly (s := (s.wait d).abort) rfl htr hj
  have hregs : (s.wait d).abort.nextCycle.beginAssembly.regs = s.regs := by
    rw [State.beginAssembly_regs, State.nextCycle_regs, State.abort_regs, State.wait_regs]
  exact ⟨_, hrun, rfl, hregs, rfl, cleared_getD 258⟩

/-- Settles O26, by whether the byte fills the cap. -/
theorem commandByteIsStoredOrOverruns : Obligations.CommandByteIsStoredOrOverruns := by
  intro s b h hc _ hl
  obtain ⟨-, hbuf, hcount, hrcvd, hflash⟩ := ((s.wait 52).storeByte b).afterStore_keeps
  refine ⟨_, step_stopCheck_high h hl, hcount, hrcvd, hbuf, hflash, ?_⟩
  rcases ((s.wait 52).storeByte b).afterStore_cases with ⟨-, hn, e⟩ | ⟨-, hn, e⟩ | ⟨n, hp, -⟩ | ⟨n, hp, -⟩
  · have hlast : s.rxCount = 257 := Nat.succ.inj hn
    rw [e, if_pos hlast]
    exact ⟨rfl, rfl⟩
  · have hmore : s.rxCount ≠ 257 := fun hlast => hn (congrArg Nat.succ hlast)
    rw [e, if_neg hmore]
    exact ⟨h.1, rfl, hc, rfl⟩
  all_goals exact absurd (hc.symm.trans hp) nofun

/-- Settles O27, by whether the byte is the payload's last. -/
theorem payloadEndsByCount : Obligations.PayloadEndsByCount := by
  intro s b n h hc _ _ hl
  obtain ⟨-, hbuf, hcount, hrcvd, hflash⟩ := ((s.wait 52).storeByte b).afterStore_keeps
  have hcollect : ∀ m, s.collect = .payload m → n = m := fun m hm => by cases hc.symm.trans hm; rfl
  rcases ((s.wait 52).storeByte b).afterStore_cases with ⟨hp, -⟩ | ⟨hp, -⟩ | ⟨m, hm, hn, e⟩ | ⟨m, hm, hn, e⟩
  · exact absurd (hc.symm.trans hp) nofun
  · exact absurd (hc.symm.trans hp) nofun
  · obtain rfl := hcollect m hm
    have hlast : s.rxCount + 1 = n := hn
    refine ⟨_, step_stopCheck_high h hl, hcount, hrcvd, hbuf, ?_, hflash, ?_⟩
    · rw [e]; rfl
    · rw [e, if_pos hlast]; rfl
  · obtain rfl := hcollect m hm
    have hmore : s.rxCount + 1 ≠ n := hn
    refine ⟨_, step_stopCheck_high h hl, hcount, hrcvd, hbuf, ?_, hflash, ?_⟩
    · rw [e]; rfl
    · rw [e, if_neg hmore]; exact ⟨h.1, rfl, hc⟩

end Sys2Proof.Machine
end
